-- ==== Sys2Proof/Word.lean ====
section
/-! DEFINITION. Word.lean: bytes and words, and the two fixed collections the part is built on: four rails and
eight zones. Plain data and the plainest access to it. -/

namespace Sys2Proof

/-- A byte of a frame, of the configuration image or of a board-port payload. -/
abbrev Byte := BitVec 8

/-- A 16-bit field: cycle number, signature, CRC register, flag argument. -/
abbrev Half := BitVec 16

/-- The four rails of a station (00_scope 1.1). -/
inductive RailIx where
  | r0 | r1 | r2 | r3
deriving DecidableEq, Repr

/-- The rail index as the formats carry it. -/
def RailIx.toNat : RailIx → Nat
  | .r0 => 0 | .r1 => 1 | .r2 => 2 | .r3 => 3

/-- The rail named by the two low bits of a rail reference (Table 58). -/
def RailIx.ofIndex (n : Nat) : RailIx :=
  match n % 4 with
  | 0 => .r0 | 1 => .r1 | 2 => .r2 | _ => .r3

/-- All rails, in index order. -/
def RailIx.all : List RailIx := [.r0, .r1, .r2, .r3]

/-- The eight zones Z0 to Z7 (00_scope 5.3). -/
inductive ZoneIx where
  | z0 | z1 | z2 | z3 | z4 | z5 | z6 | z7
deriving DecidableEq, Repr

/-- The zone number as the formats carry it. -/
def ZoneIx.toNat : ZoneIx → Nat
  | .z0 => 0 | .z1 => 1 | .z2 => 2 | .z3 => 3 | .z4 => 4 | .z5 => 5 | .z6 => 6 | .z7 => 7

/-- The zone with the number `n` modulo 8. -/
def ZoneIx.ofIndex (n : Nat) : ZoneIx :=
  match n % 8 with
  | 0 => .z0 | 1 => .z1 | 2 => .z2 | 3 => .z3 | 4 => .z4 | 5 => .z5 | 6 => .z6 | _ => .z7

/-- All zones, in ascending order. -/
def ZoneIx.all : List ZoneIx := [.z0, .z1, .z2, .z3, .z4, .z5, .z6, .z7]

/-- One value for each of the four rails. -/
structure Four (α : Type) where
  r0 : α
  r1 : α
  r2 : α
  r3 : α
deriving DecidableEq, Repr

/-- The value of rail `r`. -/
def Four.get {α : Type} (f : Four α) : RailIx → α
  | .r0 => f.r0 | .r1 => f.r1 | .r2 => f.r2 | .r3 => f.r3

/-- The collection with rail `r`'s value replaced. -/
def Four.set {α : Type} (f : Four α) (r : RailIx) (a : α) : Four α :=
  match r with
  | .r0 => { f with r0 := a }
  | .r1 => { f with r1 := a }
  | .r2 => { f with r2 := a }
  | .r3 => { f with r3 := a }

/-- The collection whose value for rail `r` is `g r`. -/
def Four.of {α : Type} (g : RailIx → α) : Four α := ⟨g .r0, g .r1, g .r2, g .r3⟩

/-- One value for each of the eight zones. -/
structure Eight (α : Type) where
  z0 : α
  z1 : α
  z2 : α
  z3 : α
  z4 : α
  z5 : α
  z6 : α
  z7 : α
deriving DecidableEq, Repr

/-- The value of zone `z`. -/
def Eight.get {α : Type} (f : Eight α) : ZoneIx → α
  | .z0 => f.z0 | .z1 => f.z1 | .z2 => f.z2 | .z3 => f.z3
  | .z4 => f.z4 | .z5 => f.z5 | .z6 => f.z6 | .z7 => f.z7

/-- The collection with zone `z`'s value replaced. -/
def Eight.set {α : Type} (f : Eight α) (z : ZoneIx) (a : α) : Eight α :=
  match z with
  | .z0 => { f with z0 := a }
  | .z1 => { f with z1 := a }
  | .z2 => { f with z2 := a }
  | .z3 => { f with z3 := a }
  | .z4 => { f with z4 := a }
  | .z5 => { f with z5 := a }
  | .z6 => { f with z6 := a }
  | .z7 => { f with z7 := a }

/-- The collection whose value for zone `z` is `g z`. -/
def Eight.of {α : Type} (g : ZoneIx → α) : Eight α :=
  ⟨g .z0, g .z1, g .z2, g .z3, g .z4, g .z5, g .z6, g .z7⟩

/-- The values in zone order. -/
def Eight.toList {α : Type} (f : Eight α) : List α := [f.z0, f.z1, f.z2, f.z3, f.z4, f.z5, f.z6, f.z7]

end Sys2Proof
end

