-- ==== Sys2Proof/Config.lean ====
section
/-! DEFINITION. Config.lean: the fixed quantities of the part. Times are counted in periods of the 16 MHz reference
clock, from which "all times in the part derive" (00_scope Table 3; assumption 1). The manual calls no result
undefined, so no opaque free value stands here. -/

namespace Sys2Proof.Config

/-- Reference clock periods in `n` µs: REFCLK runs at 16 MHz (00_scope Table 3). -/
def us (n : Nat) : Nat := 16 * n

/-- One tick, 100 µs (00_scope 5.2). -/
def tick : Nat := us 100

/-- A slot of the shelf line, 450 µs (R122). -/
def slotLength : Nat := us 450

/-- An own frame starts this long after the start of the own slot (R131). -/
def buildDelay : Nat := us 10

/-- A frame is in its slot when it starts at most this far from its expected start (R126). -/
def syncTolerance : Nat := us 20

/-- The line rests recessive for more than this between frames (R119, R144). -/
def frameGap : Nat := us 20

/-- The spacing of the sample instants (R52). -/
def samplePeriod : Nat := us 200

/-- A demand pin is taken once it has held its level this long (R74). -/
def pinFilter : Nat := us 1000

/-- A bit of the memory transaction: CM_SCK runs at 2 MHz (R167). -/
def memoryBit : Nat := 8

/-- The memory transaction of a load, 888 bits at 2 MHz (R167). -/
def loadShortest : Nat := us 444

/-- The longest a load may take (R166). -/
def loadLongest : Nat := us 500

/-- Bytes of the configuration image (Table 63). -/
def imageLength : Nat := 108

/-- The start byte of a frame (Table 59). -/
def startByte : Byte := 0x96

/-- The format tag of an image (Table 48). -/
def formatTag : Byte := 0x51

/-- Records the timing record queue can hold (R159). -/
def queueLength : Nat := 16

/-- The most hold entries a frame carries (R35, R147). -/
def holdLimit : Nat := 8

/-- The widest width a record carries, in ticks (R157). -/
def widthLimit : Nat := 65535

end Sys2Proof.Config
end

