-- ==== Sys2Proof/Syntax.lean ====
section
/-! DEFINITION. Syntax.lean: the commands and events of spec/opcode_table.json, one constructor a row, with their
operands. The table gives no operands: they are read from the rules each row names. -/

namespace Sys2Proof

/-- The three judgements a report or a presence change reaches (R105): prerequisites, holds, shelf demand. -/
inductive View where
  | prerequisites | holds | demand
deriving DecidableEq, Repr

/-- The three blocks a valid frame is handed to (R150). -/
inductive Block where
  | lineAccess | peerTable | zoneTable
deriving DecidableEq, Repr

/-- What every command brings with it: the time that passes before it, and the orders the manual leaves open
(assumptions 1 and 4). `{}` is an event at the present instant with every open order as the manual lists it. -/
structure Occasion where
  /-- Reference clock periods between the previous command and this one. -/
  wait : Nat := 0
  /-- Rails that take an event before the others, in this order; the others follow in index order (R32, R159). -/
  rails : List RailIx := []
  /-- Which judgement takes a report or presence change first (R105, R110). -/
  views : List View := []
  /-- Which block takes a valid frame first (R90, R150). -/
  blocks : List Block := []
  /-- At a slot boundary, whether the start of the new slot is taken before the end of the old one (R122). -/
  startFirst : Bool := false
deriving DecidableEq, Repr

/-- A byte cut from the line: its data bits, and whether its stop bit was recessive (R143). -/
structure RxByte where
  data : Byte
  stopGood : Bool
deriving DecidableEq, Repr

/-- The two demand pins (R74). -/
inductive DemPin where
  | dem0 | dem1
deriving DecidableEq, Repr

/-- One constructor per row of spec/opcode_table.json. `o` is the occasion; `straps` are the levels of ST0 to ST4
read by a load that begins (R166). -/
inductive Instr where
  | powerOn (o : Occasion) (straps : BitVec 5)
  | resetNLow (o : Occasion)
  | resetNHigh (o : Occasion) (straps : BitVec 5)
  | configurationLoadEnd (o : Occasion) (image : List Byte)
  | transactionBegin (o : Occasion)
  | transactionEnd (o : Occasion) (mosi : List Bool)
  | unknown (o : Occasion) (code : Byte)
  | readStation (o : Occasion)
  | readLine (o : Occasion)
  | readPeer (o : Occasion) (n : Byte)
  | readZones (o : Occasion)
  | readTrip (o : Occasion) (z : Byte)
  | readRail (o : Occasion) (r : Byte)
  | takeRecord (o : Occasion)
  | setDemand (o : Occasion) (mask : Byte)
  | clearZone (o : Occasion) (z : Byte)
  | ackFlags (o : Occasion) (mask : Half)
  | setAlertMask (o : Occasion) (mask : Half)
  | resumeLine (o : Occasion)
  | restart (o : Occasion)
  | reload (o : Occasion) (straps : BitVec 5)
  | reinitialisation (o : Occasion) (straps : BitVec 5)
  | demandPinChange (o : Occasion) (pin : DemPin)
  | demandPinTaken (o : Occasion) (pin : DemPin)
  | sample (o : Occasion) (counts : Four (BitVec 12)) (pg : Four Bool)
  | settleTimerExpiry (o : Occasion) (r : RailIx)
  | rampTimeout (o : Occasion) (r : RailIx)
  | drainForced (o : Occasion) (r : RailIx)
  | drainContinued (o : Occasion) (r : RailIx)
  | dischargeTimeout (o : Occasion) (r : RailIx)
  | pgLost (o : Occasion) (r : RailIx)
  | slotBoundary (o : Occasion)
  | frameBuild (o : Occasion)
  | collision (o : Occasion)
  | ownFrameEnd (o : Occasion)
  | coldStart (o : Occasion)
  | frameStart (o : Occasion)
  | frameReceived (o : Occasion) (bytes : List RxByte)
  | receptionGap (o : Occasion) (bytes : List RxByte)
deriving DecidableEq, Repr

end Sys2Proof
end

