-- ==== Sys2Proof/Decode.lean ====
section
/-! DEFINITION. Decode.lean: the board port's command bytes (Table 52), and the host's question about table words.
No row of spec/opcode_table.json gives bits, so decodeTableWord answers none for every word (assumption 17). -/

namespace Sys2Proof

/-- The command codes of Table 52, each with its number of argument bytes. -/
def commandCodes : List (Byte × Nat) :=
  [(0x10, 0), (0x11, 0), (0x12, 1), (0x13, 0), (0x14, 1), (0x15, 1), (0x20, 0), (0x30, 1), (0x31, 1),
   (0x32, 2), (0x33, 2), (0x40, 0), (0x41, 0), (0x42, 0)]

/-- The number of argument bytes of a command byte, none when it names no command (R181). -/
def argumentBytes (code : Byte) : Option Nat :=
  (commandCodes.find? (fun p => p.1 == code)).map (·.2)

/-- The board-port command that the bytes of a transaction spell (R181, Table 52): the command byte and its
arguments, high byte first. A byte that names no command is UNKNOWN at once; none while arguments are missing. The
straps are those a RELOAD would find. -/
def decodePort (o : Occasion) (straps : BitVec 5) (bytes : List Byte) : Option Instr :=
  match bytes with
  | [] => none
  | c :: args =>
    match argumentBytes c with
    | none => some (.unknown o c)
    | some 0 =>
      if c = 0x10 then some (.readStation o)
      else if c = 0x11 then some (.readLine o)
      else if c = 0x13 then some (.readZones o)
      else if c = 0x20 then some (.takeRecord o)
      else if c = 0x40 then some (.resumeLine o)
      else if c = 0x41 then some (.restart o)
      else some (.reload o straps)
    | some 1 =>
      match args with
      | [] => none
      | a :: _ =>
        if c = 0x12 then some (.readPeer o a)
        else if c = 0x14 then some (.readTrip o a)
        else if c = 0x15 then some (.readRail o a)
        else if c = 0x30 then some (.setDemand o a)
        else some (.clearZone o a)
    | some _ =>
      match args with
      | a :: b :: _ =>
        if c = 0x32 then some (.ackFlags o (a ++ b)) else some (.setAlertMask o (a ++ b))
      | _ => none

/-- The command that a word of `nbits` bits spells by the table's bits: none, since no row gives bits. -/
def decodeTableWord (_nbits _w : Nat) : Option Instr := none

end Sys2Proof
end

