-- ==== Sys2Proof/Machine/State.lean ====
section
/-! DEFINITION. State.lean: everything the manual says the part holds, one group per block of Table 1, as plain data;
the queue of waiting commands; the state right after the power-on reset; and the reasons a step could stop. -/

namespace Sys2Proof.Machine

/-- Rail states (Table 8). -/
inductive RailState where
  | off | waiting | settling | ramping | good | draining | falling | fault
deriving DecidableEq, Repr

/-- Last fall causes (Table 9). -/
inductive FallCause where
  | none | demand | trip | prereqLost | restart
deriving DecidableEq, Repr

/-- Fault kinds (Table 9). -/
inductive FaultKind where
  | none | rampTimeout | window | pgLost | dischargeTimeout | backfeed
deriving DecidableEq, Repr

/-- A running timer: its start, in reference clock periods, and its length in ticks (R1, R31, R52). -/
structure Timer where
  start : Nat
  length : Nat
deriving DecidableEq, Repr

/-- What a rail does when a prerequisite is lost while it is up (R24). -/
inductive Policy where
  | follow | latch
deriving DecidableEq, Repr

/-- A rail named as station.rail: a prerequisite or a hold entry (Table 58). -/
structure Ref where
  station : Nat
  rail : RailIx
deriving DecidableEq, Repr

/-- One rail record of the loaded image (Tables 7, 14 and 64). -/
structure RailConfig where
  fitted : Bool
  trip : Bool
  policy : Policy
  pgUsed : Bool
  zone : ZoneIx
  nominal : Nat
  magnitude : Nat
  dischargeLevel : Nat
  persistence : Nat
  pgDeglitch : Nat
  settleDelay : Nat
  rampTimeout : Nat
  drainTimeout : Nat
  dischargeTimeout : Nat
  prerequisites : List Ref
deriving DecidableEq, Repr

/-- The loaded configuration image (Table 63). -/
structure Image where
  signature : Half
  shelfSize : Nat
  dem0Mask : Byte
  dem1Mask : Byte
  rails : Four RailConfig
deriving DecidableEq, Repr

/-- The rail record of the sequencer (R1), with the conditions kept for the rail (R5, R37). `remoteGood` and
`remoteUp` are the parts of "all prerequisites good" and "all prerequisites up" last judged from the peer table,
`peerHeld` the part of held status last judged from the peers' lists. `since` and `drainFrom` are the model's own:
the instant the present state was entered, and the instant the present drain width counts from (assumption 20). -/
structure Rail where
  state : RailState
  settle : Option Timer
  ramp : Option Timer
  drain : Option Timer
  discharge : Option Timer
  fallCause : FallCause
  faultKind : FaultKind
  remoteGood : Bool
  remoteUp : Bool
  peerHeld : Bool
  since : Nat
  drainFrom : Nat
deriving DecidableEq, Repr

/-- The monitor record of a rail (R52). -/
structure Monitor where
  lastSample : BitVec 12
  pg : Bool
  outside : Nat
  deglitch : Option Timer
deriving DecidableEq, Repr

/-- The rail monitor: four monitor records and the next sample instant (R52). -/
structure MonitorBlock where
  rails : Four Monitor
  nextSample : Nat
deriving DecidableEq, Repr

/-- Zone conditions (R72). -/
inductive Condition where
  | normal | tripped
deriving DecidableEq, Repr

/-- A trip record (Table 22). -/
structure TripRecord where
  station : Nat
  rail : RailIx
  kind : FaultKind
  cycle : Half
  slot : Nat
  offset : Nat
deriving DecidableEq, Repr

/-- A zone entry (R72). -/
structure Zone where
  generation : Byte
  condition : Condition
  record : Option TripRecord
  demanded : Bool
deriving DecidableEq, Repr

/-- A demand pin: its present level, the instant of its last change, and its taken level (R74). -/
structure Pin where
  level : Bool
  changedAt : Nat
  taken : Bool
deriving DecidableEq, Repr

/-- The zone table (R72). -/
structure ZoneTable where
  entries : Eight Zone
  ownDemand : Byte
  lastPart : ZoneIx
  dem0 : Pin
  dem1 : Pin
deriving DecidableEq, Repr

/-- Presence of a peer entry (R103). -/
inductive Presence where
  | absent | present | lost
deriving DecidableEq, Repr

/-- A peer entry (Table 27). `heard` is the model's own: a valid frame from the station has been taken since the
start of its slot (R107, assumption 20). -/
structure Peer where
  presence : Presence
  misses : Nat
  rails : Four RailState
  demand : Byte
  holds : List Byte
  lastCycle : Half
  heard : Bool
deriving DecidableEq, Repr

/-- Line phases (R120). -/
inductive LinePhase where
  | start | unconfigured | listen | active | muted
deriving DecidableEq, Repr

/-- A running slot timer: the current slot and the instant it started (R120, R122). -/
structure SlotTimer where
  slot : Nat
  start : Nat
deriving DecidableEq, Repr

/-- LEAVING states (R120, R135). -/
inductive Leaving where
  | none | due | done
deriving DecidableEq, Repr

/-- Send states (R120). -/
inductive SendState where
  | idle | sending | cutOff
deriving DecidableEq, Repr

/-- The own frame on its way out: its bytes, the instant of its first start bit, whether it is a LEAVING frame
(R131, R135). -/
structure OutFrame where
  bytes : List Byte
  start : Nat
  leaving : Bool
deriving DecidableEq, Repr

/-- Line access (R120). -/
structure LineAccess where
  phase : LinePhase
  slotTimer : Option SlotTimer
  timingHeld : Bool
  syncSinceLoad : Bool
  cycle : Half
  listenCount : Nat
  silence : Option Nat
  coldMark : Bool
  leaving : Leaving
  send : SendState
  tx : Option OutFrame
deriving DecidableEq, Repr

/-- Reception states (R142). WAITING carries the end of the frame judged last where that had its expected number of bytes,
after which the line has still to rest (R144), and none otherwise; RECEIVING carries the start t₀ of the frame. -/
inductive Reception where
  | off | waiting (ended : Option Nat) | receiving (t0 : Nat) | blocked
deriving DecidableEq, Repr

/-- Error kinds of refused frames (Table 36). -/
inductive ErrorKind where
  | none | badStart | framing | truncated | badLength | badCheck | foreign | badStation | duplicate
deriving DecidableEq, Repr

/-- Mute causes (Table 38). -/
inductive MuteCause where
  | none | collision | duplicate
deriving DecidableEq, Repr

/-- The frame receiver and the line status record it holds (R142, Table 37). -/
structure Receiver where
  reception : Reception
  lastError : ErrorKind
  receiveErrors : Nat
  collisions : Nat
  consecutive : Nat
  muteCause : MuteCause
  outOfSlot : Nat
deriving DecidableEq, Repr

/-- Kinds of timing records (Table 42). -/
inductive RecordKind where
  | ramp | drain | drainForced | discharge | dropout | fault
deriving DecidableEq, Repr

/-- The detail of a timing record (Table 41). -/
inductive Detail where
  | none | cause (c : FallCause) | kind (k : FaultKind)
deriving DecidableEq, Repr

/-- A timing record (Table 41). -/
structure TimingRecord where
  rail : RailIx
  kind : RecordKind
  detail : Detail
  width : Nat
  continued : Bool
  cycle : Half
deriving DecidableEq, Repr

/-- The timing record queue, oldest first, and its discarded count (R159, R160). -/
structure RecordQueue where
  records : List TimingRecord
  discarded : Nat
deriving DecidableEq, Repr

/-- Configuration error kinds (Table 46). -/
inductive ConfigErrorKind where
  | none | badTag | badCheck | badShelf | badStation | badRail | badOrder | holdLimit
deriving DecidableEq, Repr

/-- Restart causes (Table 47). -/
inductive RestartCause where
  | powerOn | resetPin | command
deriving DecidableEq, Repr

/-- The load state; a load carries the instant it began (R164, R166). -/
inductive LoadState where
  | idle | loading (start : Nat)
deriving DecidableEq, Repr

/-- Start-up and configuration (R164). `resetN` is the level of RESET_N; `inReset` is the cause that the end of the
reset will give while the part is in reset (R165). -/
structure StartUp where
  station : BitVec 5
  config : Option Image
  error : ConfigErrorKind
  errorRail : RailIx
  cause : RestartCause
  restartPending : Bool
  load : LoadState
  resetN : Bool
  inReset : Option RestartCause
deriving DecidableEq, Repr

/-- Transaction states of the board port (R180). -/
inductive Transaction where
  | idle | command | arguments | response
deriving DecidableEq, Repr

/-- Result codes (Table 53). -/
inductive Result where
  | ok | empty | busy | state | range | unknown | truncated
deriving DecidableEq, Repr

/-- The board port (Table 51). `selectLow` is the level of BP_CS (low selects); `response` is the result byte and
payload of the command that executed in this transaction (R180). -/
structure BoardPort where
  selectLow : Bool
  transaction : Transaction
  response : List Byte
  lastResult : Result
  portDemand : Byte
  flags : BitVec 9
  mask : BitVec 9
deriving DecidableEq, Repr

/-- The whole part, the reference clock periods passed, and the commands waiting, the next one first. -/
structure State where
  pending : List Instr
  now : Nat
  startup : StartUp
  rails : Four Rail
  monitor : MonitorBlock
  zones : ZoneTable
  peers : List Peer
  line : LineAccess
  receiver : Receiver
  records : RecordQueue
  port : BoardPort
deriving DecidableEq, Repr

/-- Reasons a step stops with a fault. There is none: the manual lets no event stop the part (a rail fault, a refused
frame, a failed load and a refused command all lead to a next state), so no definition raises one. Safe. -/
inductive Fault where
deriving DecidableEq, Repr

/-- Reasons a step refuses a command. -/
inductive Refusal where
  /-- Raised by `exec` alone, for a command with no meaning; no arm of it answers so now. Safe. -/
  | notModelled (mnemonic : String)
deriving DecidableEq, Repr

/-- A rail record after a reset (R33, R51). -/
def Rail.cleared : Rail :=
  { state := .off, settle := none, ramp := none, drain := none, discharge := none, fallCause := .none,
    faultKind := .none, remoteGood := true, remoteUp := true, peerHeld := false, since := 0, drainFrom := 0 }

/-- A monitor record after a reset (R71). -/
def Monitor.cleared : Monitor := { lastSample := 0, pg := false, outside := 0, deglitch := none }

/-- A zone entry after a reset (R100). -/
def Zone.cleared : Zone := { generation := 0, condition := .normal, record := none, demanded := false }

/-- A demand pin, not asserted and not changed since instant 0 (R74, R100). -/
def Pin.cleared : Pin := { level := false, changedAt := 0, taken := false }

/-- A peer entry as a load makes it (R117). -/
def Peer.cleared : Peer :=
  { presence := .absent, misses := 0, rails := ⟨.off, .off, .off, .off⟩, demand := 0, holds := [], lastCycle := 0,
    heard := false }

/-- Line access after a reset (R140). -/
def LineAccess.cleared : LineAccess :=
  { phase := .start, slotTimer := none, timingHeld := false, syncSinceLoad := false, cycle := 0, listenCount := 0,
    silence := none, coldMark := false, leaving := .none, send := .idle, tx := none }

/-- The frame receiver after a reset (R154). -/
def Receiver.cleared : Receiver :=
  { reception := .off, lastError := .none, receiveErrors := 0, collisions := 0, consecutive := 0,
    muteCause := .none, outOfSlot := 0 }

/-- The power-on alert mask (Table 55). -/
def powerOnMask : BitVec 9 := 0x1A3

/-- The part at the end of a power-on reset: every block at its power-on values (Table 49) and the first load begun
with restart cause POWER_ON (R165, R179). The first sample instant is assumption 6; the straps (station 0), the pin
levels and the clock reading 0 are assumption 7. -/
def State.reset : State :=
  { pending := []
    now := 0
    startup :=
      { station := 0, config := none, error := .none, errorRail := .r0, cause := .powerOn, restartPending := false,
        load := .loading 0, resetN := true, inReset := none }
    rails := ⟨Rail.cleared, Rail.cleared, Rail.cleared, Rail.cleared⟩
    monitor :=
      { rails := ⟨Monitor.cleared, Monitor.cleared, Monitor.cleared, Monitor.cleared⟩,
        nextSample := Config.samplePeriod }
    zones :=
      { entries := ⟨Zone.cleared, Zone.cleared, Zone.cleared, Zone.cleared, Zone.cleared, Zone.cleared, Zone.cleared,
          Zone.cleared⟩,
        ownDemand := 0, lastPart := .z7, dem0 := Pin.cleared, dem1 := Pin.cleared }
    peers := []
    line := LineAccess.cleared
    receiver := Receiver.cleared
    records := { records := [], discarded := 0 }
    port :=
      { selectLow := false, transaction := .idle, response := [], lastResult := .ok, portDemand := 0, flags := 0,
        mask := powerOnMask } }

end Sys2Proof.Machine
end

