-- ==== Sys2Proof/Machine/Flags.lean ====
section
/-! DEFINITION. Flags.lean: the nine alert flags and ALERT_N (10.6), the codes by which the formats name states, kinds
and causes (Tables 8, 9, 36, 38, 42, 46, 47, 53, 54), and the comparisons of 5.4. -/

namespace Sys2Proof.Machine
open Sys2Proof

/-- The alert flags of Table 55. -/
inductive AlertFlag where
  | railFault | zoneTripped | zoneCleared | peerLost | peerFound | lineMuted | recordsWaiting | recordsOverflow
  | configFault
deriving DecidableEq, Repr

/-- The flag's bit in the alert flags, the alert mask and the 16-bit arguments (Table 55). -/
def AlertFlag.bit : AlertFlag → BitVec 9
  | .railFault => 0x001 | .zoneTripped => 0x002 | .zoneCleared => 0x004 | .peerLost => 0x008 | .peerFound => 0x010
  | .lineMuted => 0x020 | .recordsWaiting => 0x040 | .recordsOverflow => 0x080 | .configFault => 0x100

/-- A block sets an alert flag; a set flag stays set (R192). -/
def State.setFlag (s : State) (f : AlertFlag) : State :=
  { s with port := { s.port with flags := s.port.flags ||| f.bit } }

/-- A block sets an alert flag when `b` holds. -/
def State.setFlagIf (s : State) (b : Bool) (f : AlertFlag) : State := if b then s.setFlag f else s

/-- Whether an alert flag is set. -/
def State.flagSet (s : State) (f : AlertFlag) : Bool := (s.port.flags &&& f.bit) != 0

/-- ALERT_N is driven low while an enabled flag is set, and released while the part is in reset (R195, R165). -/
def State.alertLow (s : State) : Bool := s.startup.inReset.isNone && (s.port.flags &&& s.port.mask) != 0

/-- Table 8. -/
def RailState.code : RailState → Nat
  | .off => 0 | .waiting => 1 | .settling => 2 | .ramping => 3 | .good => 4 | .draining => 5 | .falling => 6
  | .fault => 7

/-- The rail state of a 3-bit field (Table 8; every code names a state). -/
def RailState.ofCode (n : Nat) : RailState :=
  match n % 8 with
  | 0 => .off | 1 => .waiting | 2 => .settling | 3 => .ramping | 4 => .good | 5 => .draining | 6 => .falling
  | _ => .fault

/-- Table 9, fall causes. -/
def FallCause.code : FallCause → Nat
  | .none => 0 | .demand => 1 | .trip => 2 | .prereqLost => 3 | .restart => 4

/-- Table 9, fault kinds. -/
def FaultKind.code : FaultKind → Nat
  | .none => 0 | .rampTimeout => 1 | .window => 2 | .pgLost => 3 | .dischargeTimeout => 4 | .backfeed => 5

/-- The fault kind of a 3-bit field, when it is one of the five (R85, Table 9). -/
def FaultKind.ofCode (n : Nat) : Option FaultKind :=
  match n with
  | 1 => some .rampTimeout | 2 => some .window | 3 => some .pgLost | 4 => some .dischargeTimeout
  | 5 => some .backfeed | _ => Option.none

/-- Table 42. -/
def RecordKind.code : RecordKind → Nat
  | .ramp => 1 | .drain => 2 | .drainForced => 3 | .discharge => 4 | .dropout => 5 | .fault => 6

/-- The detail's code: that of Table 9, 0 for none (R155). -/
def Detail.code : Detail → Nat
  | .none => 0 | .cause c => c.code | .kind k => k.code

/-- Table 36. -/
def ErrorKind.code : ErrorKind → Nat
  | .none => 0 | .badStart => 1 | .framing => 2 | .truncated => 3 | .badLength => 4 | .badCheck => 5 | .foreign => 6
  | .badStation => 7 | .duplicate => 8

/-- Table 38. -/
def MuteCause.code : MuteCause → Nat
  | .none => 0 | .collision => 1 | .duplicate => 2

/-- Table 46. -/
def ConfigErrorKind.code : ConfigErrorKind → Nat
  | .none => 0 | .badTag => 1 | .badCheck => 2 | .badShelf => 3 | .badStation => 4 | .badRail => 5 | .badOrder => 6
  | .holdLimit => 7

/-- Table 47. -/
def RestartCause.code : RestartCause → Nat
  | .powerOn => 0 | .resetPin => 1 | .command => 2

/-- Table 53. -/
def Result.code : Result → Byte
  | .ok => 1 | .empty => 2 | .busy => 3 | .state => 4 | .range => 5 | .unknown => 6 | .truncated => 7

/-- Table 54. -/
def LinePhase.code : LinePhase → Nat
  | .start => 0 | .unconfigured => 1 | .listen => 2 | .active => 3 | .muted => 4

/-- Presence codes (R200). -/
def Presence.code : Presence → Nat
  | .absent => 0 | .present => 1 | .lost => 2

/-- A saturating counter, 0 to 255 (00_scope 5.4). -/
def saturate (n : Nat) : Nat := min 255 (n + 1)

/-- Generation `g'` is newer than `g`: ahead by 1 to 127, modulo 256 (R78). A difference of 128 is older. -/
def newerGeneration (g' g : Byte) : Bool := 1 ≤ (g' - g).toNat && (g' - g).toNat ≤ 127

/-- Cycle number `c'` is ahead of `c`: by 1 to 32,767, modulo 65,536 (R123). -/
def cycleAhead (c' c : Half) : Bool := 1 ≤ (c' - c).toNat && (c' - c).toNat ≤ 32767

/-- Trip record `a` is earlier than `b` (R80). -/
def TripRecord.earlier (a b : TripRecord) : Bool :=
  cycleAhead b.cycle a.cycle ||
  (a.cycle == b.cycle &&
    (decide (a.slot < b.slot) ||
     (a.slot == b.slot &&
       (decide (a.offset < b.offset) ||
        (a.offset == b.offset &&
          (decide (a.station < b.station) ||
           (a.station == b.station && decide (a.rail.toNat < b.rail.toNat))))))))

/-- The record a tripped zone holds after `arriving` is merged with the one held (R81). -/
def mergeRecord (held : Option TripRecord) (arriving : TripRecord) : TripRecord :=
  match held with
  | none => arriving
  | some h => if arriving.earlier h then arriving else h

end Sys2Proof.Machine
end

