-- ==== Sys2Proof/Machine/Operands.lean ====
section
/-! DEFINITION. Operands.lean: the byte formats of Chapter 11 and what is read from them: the CRC, the rail reference,
the shelf frame and its trip part, the eight frame checks (R145), the configuration image and its seven checks (R168 to
R170), and the bits of a frame on the line (R119, R143). -/

namespace Sys2Proof.Machine
open Sys2Proof

/-- The high byte of a 16-bit field, sent first (00_scope 5.2). -/
def highByte (w : Half) : Byte := w.extractLsb' 8 8

/-- The low byte of a 16-bit field. -/
def lowByte (w : Half) : Byte := w.extractLsb' 0 8

/-- The byte with the value `n` modulo 256. -/
def toByte (n : Nat) : Byte := BitVec.ofNat 8 n

/-- A single-byte level or status: 01h for high, yes or set (R200). -/
def boolByte (b : Bool) : Byte := if b then 1 else 0

/-- Byte `i` of a list of bytes, 00h beyond its end. -/
def byteAt (bs : List Byte) (i : Nat) : Byte := bs.getD i 0

/-- The 16-bit field in bytes `i` and `i + 1`, high byte first. -/
def halfAt (bs : List Byte) (i : Nat) : Half := byteAt bs i ++ byteAt bs (i + 1)

/-- The zone mask that names the zones where `f` holds (bit 0 for Z0). -/
def zoneMask (f : ZoneIx → Bool) : Byte :=
  BitVec.ofNat 8 ((ZoneIx.all.map (fun z => if f z then 2 ^ z.toNat else 0)).sum)

/-- Whether a zone mask names zone `z`. -/
def names (mask : Byte) (z : ZoneIx) : Bool := mask.getLsbD z.toNat

/-- The list without the later repetitions of an entry. -/
def distinctEntries {α : Type} [DecidableEq α] : List α → List α
  | [] => []
  | a :: l => a :: (distinctEntries l).filter (fun b => b ≠ a)

/-! ### The CRC (R198) -/

/-- One step of the register: shifted left, with 1021h combined in when a 1 was shifted out. -/
def crcStep (reg : Half) : Half := if reg.msb then (reg <<< 1) ^^^ 0x1021 else reg <<< 1

/-- `n` steps of the register. -/
def crcSteps : Nat → Half → Half
  | 0, reg => reg
  | n + 1, reg => crcSteps n (crcStep reg)

/-- One byte added into the high byte of the register, then eight steps. -/
def crcByte (reg : Half) (b : Byte) : Half := crcSteps 8 (reg ^^^ (b ++ (0 : Byte)))

/-- The CRC of a list of bytes: start FFFFh, no final inversion (R198, R168). -/
def crc (bs : List Byte) : Half := bs.foldl crcByte 0xFFFF

/-! ### Rail references (Table 58) -/

/-- The reference in a byte: station in bits 6 to 2, rail in bits 1 and 0, bit 7 ignored (R197). -/
def Ref.ofByte (b : Byte) : Ref :=
  { station := (b.extractLsb' 2 5).toNat, rail := RailIx.ofIndex (b.extractLsb' 0 2).toNat }

/-- The byte of a reference, 4 × station + rail. -/
def Ref.toByte (p : Ref) : Byte := BitVec.ofNat 8 (4 * p.station + p.rail.toNat)

/-! ### The shelf frame (Tables 59 to 62) -/

/-- A trip part as its eight bytes carry it: zone, origin station and slot as whole bytes, the fault kind as the
3-bit field (R197). -/
structure TripPart where
  zone : Byte
  station : Byte
  kindCode : BitVec 3
  rail : RailIx
  cycle : Half
  slot : Byte
  offset : Half
deriving DecidableEq, Repr

/-- What a frame carries between its start byte and its CRC. -/
structure Frame where
  station : Byte
  leaving : Bool
  signature : Half
  cycle : Half
  rails : Four RailState
  demand : Byte
  generations : Eight Byte
  tripMask : Byte
  holds : List Byte
  part : Option TripPart
deriving DecidableEq, Repr

/-- The rail states field: three bits a rail, rail 0 lowest (Table 61). -/
def railsField (f : Four RailState) : Half :=
  BitVec.ofNat 16 (f.r0.code + 8 * f.r1.code + 64 * f.r2.code + 512 * f.r3.code)

/-- The rail states of a field; bits 15 to 12 are ignored (Table 61, R197). -/
def railsOfField (w : Half) : Four RailState := Four.of (fun r => RailState.ofCode (w.toNat / 8 ^ r.toNat))

/-- The eight bytes of a trip part (Table 62). -/
def TripPart.toBytes (p : TripPart) : List Byte :=
  [p.zone, p.station, BitVec.ofNat 8 (16 * p.kindCode.toNat + p.rail.toNat), highByte p.cycle, lowByte p.cycle, p.slot,
   highByte p.offset, lowByte p.offset]

/-- The trip part in the eight bytes from byte `i`; bits 7, 3 and 2 of its third byte are ignored (R197). -/
def TripPart.ofBytes (bs : List Byte) (i : Nat) : TripPart :=
  { zone := byteAt bs i, station := byteAt bs (i + 1), kindCode := (byteAt bs (i + 2)).extractLsb' 4 3,
    rail := RailIx.ofIndex (byteAt bs (i + 2)).toNat, cycle := halfAt bs (i + 3), slot := byteAt bs (i + 5),
    offset := halfAt bs (i + 6) }

/-- The frame flags byte (Table 60). -/
def Frame.flagsByte (f : Frame) : Byte :=
  BitVec.ofNat 8 ((if f.leaving then 32 else 0) + (if f.part.isSome then 16 else 0) + f.holds.length)

/-- The bytes the CRC of a frame covers: byte 1 up to the byte before the CRC (Table 59). -/
def Frame.body (f : Frame) : List Byte :=
  [f.station, f.flagsByte, highByte f.signature, lowByte f.signature, highByte f.cycle, lowByte f.cycle,
   highByte (railsField f.rails), lowByte (railsField f.rails), f.demand] ++ f.generations.toList ++ [f.tripMask]
  ++ f.holds ++ (match f.part with | some p => p.toBytes | none => [])

/-- A frame byte by byte: start byte, body, CRC high byte first (Table 59, R197). -/
def Frame.toBytes (f : Frame) : List Byte :=
  Config.startByte :: f.body ++ [highByte (crc f.body), lowByte (crc f.body)]

/-- The hold count of a flags byte (Table 60). -/
def holdCount (flags : Byte) : Nat := flags.toNat % 16

/-- The expected length of a frame, once its flags byte is there: 21, plus one for each hold entry, plus 8 for a trip
part; a hold count over 8 gives no expected length (R144). -/
def expectedLength (bs : List Byte) : Option Nat :=
  if bs.length < 3 then none
  else if Config.holdLimit < holdCount (byteAt bs 2) then none
  else some (21 + holdCount (byteAt bs 2) + (if (byteAt bs 2).getLsbD 4 then 8 else 0))

/-- What a sound frame's bytes carry (R197). -/
def Frame.ofBytes (bs : List Byte) : Frame :=
  { station := byteAt bs 1
    leaving := (byteAt bs 2).getLsbD 5
    signature := halfAt bs 3
    cycle := halfAt bs 5
    rails := railsOfField (halfAt bs 7)
    demand := byteAt bs 9
    generations := Eight.of (fun z => byteAt bs (10 + z.toNat))
    tripMask := byteAt bs 18
    holds := (bs.drop 19).take (holdCount (byteAt bs 2))
    part :=
      if (byteAt bs 2).getLsbD 4 then some (TripPart.ofBytes bs (19 + holdCount (byteAt bs 2))) else none }

/-- What the eight checks make of a frame (R145). -/
inductive Verdict where
  | refused (e : ErrorKind)
  | valid (f : Frame)
deriving DecidableEq, Repr

/-- The gap check fails: reception ended before the expected length was complete, or before the flags byte was
(R144, R146). A hold count over 8 passes it. -/
def shortOfExpected (bs : List Byte) : Bool :=
  match expectedLength bs with
  | some n => decide (bs.length < n)
  | none => decide (bs.length < 3)

/-- The CRC check of a frame of `n` bytes: the CRC over every byte after the start byte up to the two CRC bytes,
compared with those two, high byte first (R147). -/
def crcSound (bs : List Byte) (n : Nat) : Bool := crc ((bs.drop 1).take (n - 3)) == halfAt bs (n - 2)

/-- The eight checks in the order of Table 36; the first that fails gives the error kind (R145). -/
def judgeFrame (img : Image) (own : Nat) (rx : List RxByte) : Verdict :=
  let bs := rx.map (·.data)
  if byteAt bs 0 ≠ Config.startByte then .refused .badStart
  else if rx.any (fun b => !b.stopGood) then .refused .framing
  else if shortOfExpected bs then .refused .truncated
  else
    match expectedLength bs with
    | none => .refused .badLength
    | some n =>
      if !crcSound bs n then .refused .badCheck
      else if halfAt bs 3 ≠ img.signature then .refused .foreign
      else if img.shelfSize ≤ (byteAt bs 1).toNat then .refused .badStation
      else if (byteAt bs 1).toNat = own then .refused .duplicate
      else .valid (Frame.ofBytes (bs.take n))

/-- The zone and record of a trip part that passes the range check; none when the part is set aside (R85). -/
def TripPart.accepted (p : TripPart) (shelfSize : Nat) (tripMask : Byte) : Option (ZoneIx × TripRecord) :=
  match FaultKind.ofCode p.kindCode.toNat with
  | none => none
  | some k =>
    if 7 < p.zone.toNat ∨ shelfSize ≤ p.station.toNat ∨ shelfSize ≤ p.slot.toNat ∨ 449 < p.offset.toNat
        ∨ names tripMask (ZoneIx.ofIndex p.zone.toNat) = false then none
    else some (ZoneIx.ofIndex p.zone.toNat,
      { station := p.station.toNat, rail := p.rail, kind := k, cycle := p.cycle, slot := p.slot.toNat,
        offset := p.offset.toNat })

/-- The trip part that carries a zone's record (R98, Table 62). -/
def TripRecord.toPart (t : TripRecord) (z : ZoneIx) : TripPart :=
  { zone := toByte z.toNat, station := toByte t.station, kindCode := BitVec.ofNat 3 t.kind.code, rail := t.rail,
    cycle := t.cycle, slot := toByte t.slot, offset := BitVec.ofNat 16 t.offset }

/-! ### Bits on the line -/

/-- The ten bits of a byte: dominant start bit, data bits least significant first, recessive stop bit (R119). A
recessive bit is `true`. -/
def byteBits (b : Byte) : List Bool :=
  [false, b.getLsbD 0, b.getLsbD 1, b.getLsbD 2, b.getLsbD 3, b.getLsbD 4, b.getLsbD 5, b.getLsbD 6, b.getLsbD 7, true]

/-- The bits of a frame, back to back (R119, R197). -/
def lineBits (bs : List Byte) : List Bool := bs.flatMap byteBits

/-- The level of the line in each reference clock period while bits are sent at 1 Mbit/s (R119). -/
def lineLevels (bits : List Bool) : List Bool := bits.flatMap (fun b => List.replicate (Config.us 1) b)

/-- The byte whose start bit begins at the head of `l`: data bits and stop bit taken at the middle of each bit time,
measured from that edge (R143). Beyond the list the line rests recessive. -/
def byteAtEdge (l : List Bool) : RxByte :=
  let mid (i : Nat) : Bool := l.getD (Config.us i + 8) true
  { data := BitVec.ofNat 8
      ((if mid 1 then 1 else 0) + (if mid 2 then 2 else 0) + (if mid 3 then 4 else 0) + (if mid 4 then 8 else 0)
        + (if mid 5 then 16 else 0) + (if mid 6 then 32 else 0) + (if mid 7 then 64 else 0)
        + (if mid 8 then 128 else 0))
    stopGood := mid 9 }

/-- The bytes the receiver cuts from line levels, one level per reference clock period, looking for a start bit with
`quiet` periods of recessive line behind it (R143). A start bit recessive at its middle cuts no byte; more than 20 µs
of recessive line ends the reception (R144). A line dominant at the end of a stop bit is read as the next start bit
there, whatever the stop bit's level at its middle; R143 says so of a stop bit found dominant and leaves the other open
(assumption 29). `fuel` bounds the periods looked at. -/
def cutFrom : Nat → Nat → List Bool → List RxByte
  | 0, _, _ => []
  | _ + 1, _, [] => []
  | fuel + 1, quiet, true :: rest => if Config.frameGap ≤ quiet then [] else cutFrom fuel (quiet + 1) rest
  | fuel + 1, _, false :: rest =>
    if (false :: rest).getD 8 true then cutFrom fuel 8 ((false :: rest).drop 8)
    else byteAtEdge (false :: rest) :: cutFrom fuel 0 ((false :: rest).drop (Config.us 10))

/-- The bytes cut from the levels of the line from a frame start on (R143): the operand FRAME_RECEIVED and
RECEPTION_GAP carry (assumption 11). -/
def cutBytes (levels : List Bool) : List RxByte := cutFrom levels.length 0 levels

/-! ### Bits on the serial ports (R167, R180) -/

/-- The eight bits of a byte, the most significant first. -/
def bitsMsbFirst (b : Byte) : List Bool :=
  [b.getLsbD 7, b.getLsbD 6, b.getLsbD 5, b.getLsbD 4, b.getLsbD 3, b.getLsbD 2, b.getLsbD 1, b.getLsbD 0]

/-- The bits of bytes on a serial port, in the order in which they are shifted. -/
def serialBits (bs : List Byte) : List Bool := bs.flatMap bitsMsbFirst

/-- The byte of eight bits, the most significant first. -/
def byteOfBits (b7 b6 b5 b4 b3 b2 b1 b0 : Bool) : Byte :=
  BitVec.ofNat 8
    ((if b7 then 128 else 0) + (if b6 then 64 else 0) + (if b5 then 32 else 0) + (if b4 then 16 else 0)
      + (if b3 then 8 else 0) + (if b2 then 4 else 0) + (if b1 then 2 else 0) + (if b0 then 1 else 0))

/-- The whole bytes in bits taken one after another; bits short of a byte give none. -/
def bytesOfBits : List Bool → List Byte
  | b7 :: b6 :: b5 :: b4 :: b3 :: b2 :: b1 :: b0 :: rest => byteOfBits b7 b6 b5 b4 b3 b2 b1 b0 :: bytesOfBits rest
  | _ => []

/-- The bits a target in mode 0 takes: the data level at each rising edge of the clock (R180). `clock` is the clock's
level before; the list gives the levels of clock and data, one pair for each change. -/
def risingBits (clock : Bool) : List (Bool × Bool) → List Bool
  | [] => []
  | (c, d) :: rest => if !clock && c then d :: risingBits c rest else risingBits c rest

/-! ### The configuration image (Tables 63 and 64) -/

/-- The bits sampled on CM_MISO in the memory transaction (R167), one at each of the 888 rising edges of CM_SCK, from the
levels of the input in each reference clock period of the transaction. The pull-up makes an undriven period high. -/
def memoryBits (levels : List Bool) : List Bool :=
  (List.range 888).map (fun i => levels.getD (Config.memoryBit * i + Config.memoryBit / 2) true)

/-- The image read: the 108 bytes after the three of the read command (R167), the operand that CONFIGURATION_LOAD_END
carries (assumption 22). -/
def memoryImage (levels : List Bool) : List Byte := bytesOfBits ((memoryBits levels).drop 24)

/-- Byte `i` of the image as read; CM_MISO is pulled up, so a byte no memory gives reads FFh (R167). -/
def imageByte (img : List Byte) (i : Nat) : Byte := img.getD i 0xFF

/-- The 16-bit field at byte `i` of the image. -/
def imageHalf (img : List Byte) (i : Nat) : Half := imageByte img i ++ imageByte img (i + 1)

/-- Rail `r`'s record begins at byte 6 + 25 × r (R199). -/
def recordBase (r : RailIx) : Nat := 6 + 25 * r.toNat

/-- The first prerequisite-count entries of rail `r`'s record (R169); at most the six the record has. -/
def prerequisitesOf (img : List Byte) (r : RailIx) : List Ref :=
  (List.range (min 6 (imageByte img (recordBase r + 18)).toNat)).map
    (fun i => Ref.ofByte (imageByte img (recordBase r + 19 + i)))

/-- Rail `r`'s record (Table 64). -/
def railConfigOf (img : List Byte) (r : RailIx) : RailConfig :=
  let b := recordBase r
  { fitted := (imageByte img b).getLsbD 0
    trip := (imageByte img b).getLsbD 1
    policy := if (imageByte img b).getLsbD 2 then .latch else .follow
    pgUsed := (imageByte img b).getLsbD 3
    zone := ZoneIx.ofIndex (imageByte img (b + 1)).toNat
    nominal := (imageHalf img (b + 2)).toNat
    magnitude := (imageHalf img (b + 4)).toNat
    dischargeLevel := (imageHalf img (b + 6)).toNat
    persistence := (imageByte img (b + 8)).toNat
    pgDeglitch := (imageByte img (b + 9)).toNat
    settleDelay := (imageHalf img (b + 10)).toNat
    rampTimeout := (imageHalf img (b + 12)).toNat
    drainTimeout := (imageHalf img (b + 14)).toNat
    dischargeTimeout := (imageHalf img (b + 16)).toNat
    prerequisites := prerequisitesOf img r }

/-- The image's fields (Table 63). -/
def imageOf (img : List Byte) : Image :=
  { signature := imageHalf img 1, shelfSize := (imageByte img 3).toNat, dem0Mask := imageByte img 4,
    dem1Mask := imageByte img 5, rails := Four.of (railConfigOf img) }

/-- Check 5 for one rail: a field of a fitted rail's record is not acceptable (R169). The zone and the prerequisite
count are read as whole bytes. -/
def railRefused (img : List Byte) (own : Nat) (r : RailIx) : Bool :=
  let c := railConfigOf img r
  let n := (imageByte img 3).toNat
  c.fitted &&
  (decide (7 < (imageByte img (recordBase r + 1)).toNat) || c.persistence == 0 || c.magnitude == 0
   || decide (c.nominal < c.magnitude) || decide (4095 < c.nominal + c.magnitude)
   || decide (c.nominal - c.magnitude ≤ c.dischargeLevel)
   || decide (6 < (imageByte img (recordBase r + 18)).toNat)
   || c.prerequisites.any (fun p =>
        decide (n ≤ p.station) || (p.station == own && p.rail == r)
        || (p.station == own && !(railConfigOf img p.rail).fitted))
   || c.rampTimeout == 0 || c.dischargeTimeout == 0)

/-- Fitted rail `a` names own rail `b` as a local prerequisite (R170). -/
def localLink (img : List Byte) (own : Nat) (a b : RailIx) : Bool :=
  (railConfigOf img a).fitted && (railConfigOf img a).prerequisites.any (fun p => p.station == own && p.rail == b)

/-- The rails reached from `a` by one to `n + 1` links. -/
def reached (link : RailIx → RailIx → Bool) (a : RailIx) : Nat → List RailIx
  | 0 => RailIx.all.filter (link a)
  | n + 1 => RailIx.all.filter (fun q => link a q || (reached link a n).any (fun p => link p q))

/-- Check 6: some rail can be reached from itself by following local prerequisites (R170). -/
def localCycle (img : List Byte) (own : Nat) : Bool :=
  RailIx.all.any (fun r => (reached (localLink img own) r 3).contains r)

/-- The remote prerequisites of the fitted rails, as rail reference bytes in ascending order, each once (R35, R170). -/
def remoteBytes (rails : Four RailConfig) (own : Nat) (relies : RailIx → Bool) : List Byte :=
  ((List.range 128).filter (fun b =>
    RailIx.all.any (fun r =>
      (rails.get r).fitted && relies r
        && (rails.get r).prerequisites.any (fun p => p.station != own && 4 * p.station + p.rail.toNat == b)))).map
    (BitVec.ofNat 8)

/-- The outcome of the checks on an image. -/
inductive ImageVerdict where
  | refused (e : ConfigErrorKind) (r : RailIx)
  | accepted (img : Image)
deriving DecidableEq, Repr

/-- The checks of R168 to R170 in the order of Table 46; the first that fails gives the configuration error. The rail
index is meaningful for BAD_RAIL and 0 for every other kind (R164). -/
def judgeImage (own : Nat) (img : List Byte) : ImageVerdict :=
  let n := (imageByte img 3).toNat
  if imageByte img 0 ≠ Config.formatTag then .refused .badTag .r0
  else if crc ((List.range 106).map (imageByte img)) ≠ imageHalf img 106 then .refused .badCheck .r0
  else if n < 2 ∨ 32 < n ∨ imageHalf img 1 = 0x0000 ∨ imageHalf img 1 = 0xFFFF then .refused .badShelf .r0
  else if n ≤ own then .refused .badStation .r0
  else
    match RailIx.all.find? (railRefused img own) with
    | some r => .refused .badRail r
    | none =>
      if localCycle img own then .refused .badOrder .r0
      else if Config.holdLimit < (remoteBytes (imageOf img).rails own (fun _ => true)).length then
        .refused .holdLimit .r0
      else .accepted (imageOf img)

end Sys2Proof.Machine
end

