-- ==== Sys2Proof/Machine/Ops.lean ====
section
/-! DEFINITION. Ops.lean: the operations every block uses: time, the orders an occasion gives, readings of the loaded
configuration, the timing record queue (Chapter 8) and shelf time (R124). -/

namespace Sys2Proof.Machine
open Sys2Proof

/-! ### Time (assumptions 1 and 2) -/

/-- The time an occasion lets pass before its event. -/
def State.after (s : State) (o : Occasion) : State := { s with now := s.now + o.wait }

/-- An event the part times itself takes place no earlier than the instant `t` its timer gives (R31). -/
def State.notBefore (s : State) (t : Nat) : State := { s with now := max s.now t }

/-- The instant a running timer expires: its length in ticks after its start (R31). -/
def Timer.due (t : Timer) : Nat := t.start + t.length * Config.tick

/-- A timer runs that was due before now: its expiry has not been taken yet (assumption 2). -/
def State.overdue (s : State) (t : Option Timer) : Bool :=
  match t with
  | some x => decide (x.due < s.now)
  | none => false

/-- Whole ticks from `t` to now, rounded down, at most 65,535 (R157). -/
def State.widthSince (s : State) (t : Nat) : Nat := min Config.widthLimit ((s.now - t) / Config.tick)

/-! ### Orders left open (assumption 4) -/

/-- The order in which rails take an event. -/
def railOrder (o : Occasion) : List RailIx := distinctEntries (o.rails ++ RailIx.all)

/-- The order in which prerequisites, holds and demand take a change of the shelf view (R105, R110). -/
def viewOrder (o : Occasion) : List View := distinctEntries (o.views ++ [.prerequisites, .holds, .demand])

/-- The order in which the blocks take a valid frame (R150). -/
def blockOrder (o : Occasion) : List Block := distinctEntries (o.blocks ++ [.lineAccess, .peerTable, .zoneTable])

/-! ### The loaded configuration -/

/-- The own station number (R164). -/
def State.own (s : State) : Nat := s.startup.station.toNat

/-- The shelf size N, 0 while no configuration is loaded (R164). -/
def State.shelfSize (s : State) : Nat :=
  match s.startup.config with
  | some c => c.shelfSize
  | none => 0

/-- The record of rail `r` when it is fitted in the loaded configuration. While none is loaded, every rail is handled
as not fitted (R2). -/
def State.fittedConfig (s : State) (r : RailIx) : Option RailConfig :=
  match s.startup.config with
  | some c => if (c.rails.get r).fitted then some (c.rails.get r) else none
  | none => none

/-- The state of rail `r` as it is shown and sent: OFF for a rail not fitted (R2, R131). -/
def State.shownState (s : State) (r : RailIx) : RailState :=
  match s.fittedConfig r with
  | some _ => (s.rails.get r).state
  | none => .off

/-! ### Rail and monitor records -/

/-- Rail `r`'s record replaced. -/
def State.setRail (s : State) (r : RailIx) (x : Rail) : State := { s with rails := s.rails.set r x }

/-- Rail `r`'s monitor record replaced. -/
def State.setMonitor (s : State) (r : RailIx) (x : Monitor) : State :=
  { s with monitor := { s.monitor with rails := s.monitor.rails.set r x } }

/-- Zone `z`'s entry replaced. -/
def State.setZone (s : State) (z : ZoneIx) (x : Zone) : State :=
  { s with zones := { s.zones with entries := s.zones.entries.set z x } }

/-! ### Shelf time (R124) -/

/-- The slot of shelf time: the current slot of the slot timer. -/
def State.shelfSlot (s : State) : Nat :=
  match s.line.slotTimer with
  | some t => t.slot
  | none => 0

/-- The offset of shelf time, in whole µs rounded down, 0 to 449. At the instant a slot ends, before the end is taken,
it reads 449 (assumption 14). -/
def State.shelfOffset (s : State) : Nat :=
  match s.line.slotTimer with
  | some t => min 449 ((s.now - t.start) / Config.us 1)
  | none => 0

/-! ### The timing record queue (R159 to R161) -/

/-- A record made now: it carries the own cycle number at this instant (R155). -/
def State.makeRecord (s : State) (r : RailIx) (k : RecordKind) (d : Detail) (width : Nat) (continued : Bool) :
    TimingRecord :=
  { rail := r, kind := k, detail := d, width := width, continued := continued, cycle := s.line.cycle }

/-- A record handed to the queue: it joins at the end, setting RECORDS_WAITING when the queue was empty (R159, R161);
a full queue discards it, counts it and sets RECORDS_OVERFLOW (R160). -/
def State.queueRecord (s : State) (x : TimingRecord) : State :=
  if s.records.records.length < Config.queueLength then
    ({ s with records := { s.records with records := s.records.records ++ [x] } }).setFlagIf
      s.records.records.isEmpty .recordsWaiting
  else
    ({ s with records := { s.records with discarded := saturate s.records.discarded } }).setFlag .recordsOverflow

end Sys2Proof.Machine
end

