-- ==== Sys2Proof/Machine/Sequencer.lean ====
section
/-! DEFINITION. Sequencer.lean: the rail sequencer and the hold evaluation (Chapters 1 and 2). The conditions a rail
acts on, the moves between rail states, the moves a trip or a restart makes in one step, and the settling of the
consequent events (R32). -/

namespace Sys2Proof.Machine
open Sys2Proof

/-! ### What a rail relies on -/

/-- The held states: a rail in one of them relies on its prerequisites (R34). -/
def RailState.relies : RailState → Bool
  | .settling | .ramping | .good | .draining | .falling => true
  | .off | .waiting | .fault => false

/-- The states in which the enable output is asserted (R3). -/
def RailState.enabled : RailState → Bool
  | .ramping | .good | .draining => true
  | .off | .waiting | .settling | .falling | .fault => false

/-- GOOD or DRAINING: good enough to keep a dependent up (R4). -/
def RailState.up : RailState → Bool
  | .good | .draining => true
  | .off | .waiting | .settling | .ramping | .falling | .fault => false

/-- The level of the EN pin of rail `r` (R3). -/
def State.enable (s : State) (r : RailIx) : Bool := (s.shownState r).enabled

/-- The state of rail `r` of peer `n` in this station's view: only the report of a PRESENT entry is in force (R4,
R103). -/
def State.peerRail (s : State) (n : Nat) (r : RailIx) : Option RailState :=
  match s.peers[n]? with
  | some p => if p.presence = .present then some (p.rails.get r) else none
  | none => none

/-- The remote part of a prerequisite condition: every remote prerequisite of the rail is in a state of `ok`, in a
report in force (R4). -/
def State.remoteAll (s : State) (c : RailConfig) (ok : RailState → Bool) : Bool :=
  c.prerequisites.all (fun p =>
    p.station == s.own ||
    (match s.peerRail p.station p.rail with
     | some st => ok st
     | none => false))

/-- The local part: every local prerequisite of the rail is in a state of `ok`, judged from the own rails as they
stand (R4). -/
def State.localAll (s : State) (c : RailConfig) (ok : RailState → Bool) : Bool :=
  c.prerequisites.all (fun p => p.station != s.own || ok (s.shownState p.rail))

/-- "All prerequisites good" of a fitted rail (R5): its remote part as last taken, its local part as it stands. -/
def State.allGood (s : State) (c : RailConfig) (r : RailIx) : Bool :=
  (s.rails.get r).remoteGood && s.localAll c (fun st => decide (st = .good))

/-- Whether the shelf demand of a zone holds: own demand or the last mask of a PRESENT peer names it (R76). -/
def State.shelfDemand (s : State) (z : ZoneIx) : Bool :=
  names s.zones.ownDemand z ||
  s.peers.zipIdx.any (fun p => p.2 != s.own && decide (p.1.presence = .present) && names p.1.demand z)

/-- What a rail in WAITING goes on to SETTLING by (R9): "all prerequisites good", judged at once (R8) with the remote
prerequisites GOOD and the zone demanded in the station's view as it stands now (R4, R76), also where a report's other
judgements are still to be taken (assumption 5). -/
def State.mayStart (s : State) (c : RailConfig) (r : RailIx) : Bool :=
  s.allGood c r && s.remoteAll c (fun st => decide (st = .good))
    && s.shelfDemand c.zone

/-- "All prerequisites up" of a fitted rail (R5). -/
def State.allUp (s : State) (c : RailConfig) (r : RailIx) : Bool :=
  (s.rails.get r).remoteUp && s.localAll c RailState.up

/-- The local part of held status: some own rail in a held state names `r` as a local prerequisite (R37). -/
def State.localHeld (s : State) (r : RailIx) : Bool :=
  RailIx.all.any (fun q =>
    match s.fittedConfig q with
    | some c => (s.rails.get q).state.relies && c.prerequisites.any (fun p => p.station == s.own && p.rail == r)
    | none => false)

/-- Held status of own rail `r` (R37): its peers' part as last taken, its local part as it stands. -/
def State.held (s : State) (r : RailIx) : Bool := (s.rails.get r).peerHeld || s.localHeld r

/-- Whether some peer whose report is in force names own rail `r` in its hold list (R37, R39). The own entry takes no
part (R113). -/
def State.peersHold (s : State) (r : RailIx) : Bool :=
  s.peers.zipIdx.any (fun p =>
    p.2 != s.own && decide (p.1.presence = .present)
      && p.1.holds.any (fun b => decide (Ref.ofByte b = { station := s.own, rail := r })))

/-- Whether a zone is demanded in the shelf demand, as last taken (R76). -/
def State.demanded (s : State) (z : ZoneIx) : Bool := (s.zones.entries.get z).demanded

/-- Whether a zone is NORMAL at this station. -/
def State.zoneNormal (s : State) (z : ZoneIx) : Bool := decide ((s.zones.entries.get z).condition = .normal)

/-- The start gate of a fitted rail (R7). -/
def State.gateOpen (s : State) (c : RailConfig) : Bool :=
  decide (s.line.phase = .active) && !s.startup.restartPending && s.demanded c.zone && s.zoneNormal c.zone

/-! ### Entering a state -/

/-- Rail `r` enters state `st`: every timer of the rail returns to idle (R1), the time in the state counts from now,
the outside count becomes 0 and a running deglitch timer returns to idle (R55, R64). -/
def State.enter (s : State) (r : RailIx) (st : RailState) : State :=
  (s.setRail r { s.rails.get r with
      state := st, settle := none, ramp := none, drain := none, discharge := none, since := s.now }).setMonitor r
    { s.monitor.rails.get r with outside := 0, deglitch := none }

/-- Rail `r` enters RAMPING: the enable is asserted and the ramp timer starts (R12). -/
def State.enterRamping (s : State) (c : RailConfig) (r : RailIx) : State :=
  let t := s.enter r .ramping
  t.setRail r { t.rails.get r with ramp := some { start := s.now, length := c.rampTimeout } }

/-- Rail `r` enters SETTLING: the settle timer starts; a settle delay of 0 expires as it starts and the rail goes on
to RAMPING (R9, R12). -/
def State.enterSettling (s : State) (c : RailConfig) (r : RailIx) : State :=
  let t := s.enter r .settling
  let u := t.setRail r { t.rails.get r with settle := some { start := s.now, length := c.settleDelay } }
  if c.settleDelay = 0 then u.enterRamping c r else u

/-- Rail `r` enters WAITING through its open start gate and judges "all prerequisites good" at once, before any other rail
moves: it goes on to SETTLING if that holds (R8, R9). -/
def State.enterWaiting (s : State) (c : RailConfig) (r : RailIx) : State :=
  let t := s.enter r .waiting
  if t.mayStart c r then t.enterSettling c r else t

/-- Rail `r` enters FALLING with a cause: the enable is removed, the cause is written and the discharge timer starts
(R18, R19). -/
def State.enterFalling (s : State) (c : RailConfig) (r : RailIx) (cause : FallCause) : State :=
  let t := s.enter r .falling
  t.setRail r { t.rails.get r with
    fallCause := cause, discharge := some { start := s.now, length := c.dischargeTimeout } }

/-- A rail in DRAINING is released: a DRAIN record closes the drain and the rail falls with cause DEMAND (R41). -/
def State.release (s : State) (c : RailConfig) (r : RailIx) : State :=
  (s.queueRecord (s.makeRecord r .drain .none (s.widthSince (s.rails.get r).drainFrom) false)).enterFalling c r .demand

/-- Rail `r` enters DRAINING: the drain timer starts when the drain timeout is not 0, the width starts at 0, and a
rail not held falls at once with a DRAIN record of width 0 (R16, R40). -/
def State.enterDraining (s : State) (c : RailConfig) (r : RailIx) : State :=
  let t := s.enter r .draining
  let u := t.setRail r { t.rails.get r with
    drain := if c.drainTimeout = 0 then none else some { start := s.now, length := c.drainTimeout }
    drainFrom := s.now }
  if u.held r then u else u.release c r

/-- A rail is taken down by a trip or a restart (R23, R26): up it goes to FALLING with the cause, starting it goes to
OFF, otherwise it stays. -/
def State.takeDown (s : State) (c : RailConfig) (r : RailIx) (cause : FallCause) : State :=
  match (s.rails.get r).state with
  | .ramping | .good | .draining => s.enterFalling c r cause
  | .waiting | .settling => s.enter r .off
  | .off | .falling | .fault => s

/-- The fitted rails that `which` names are taken down in one step (R23, R26, R32). -/
def State.takeDownAll (s : State) (cause : FallCause) (which : RailConfig → Bool) : State :=
  RailIx.all.foldl (fun t r =>
    match t.fittedConfig r with
    | some c => if which c then t.takeDown c r cause else t
    | none => t) s

/-- The fitted rails in FAULT of the zones that `which` names are released to OFF (R30). -/
def State.releaseFaults (s : State) (which : ZoneIx → Bool) : State :=
  RailIx.all.foldl (fun t r =>
    match t.fittedConfig r with
    | some c => if which c.zone && decide ((t.rails.get r).state = .fault) then t.enter r .off else t
    | none => t) s

/-! ### Reactions and settling (R5, R7, R32, R38) -/

/-- A rail that is up under policy FOLLOW falls when "all prerequisites up" does not hold (R24). -/
def State.followLoss (s : State) (c : RailConfig) (r : RailIx) : Option State :=
  if c.policy = .follow && !s.allUp c r then some (s.enterFalling c r .prereqLost) else none

/-- What a rail in GOOD does about one judgement (R16, R24, R38). -/
def State.goodReaction (s : State) (c : RailConfig) (r : RailIx) : View → Option State
  | .prerequisites => s.followLoss c r
  | .holds => none
  | .demand => if s.demanded c.zone then none else some (s.enterDraining c r)

/-- What a rail in DRAINING does about one judgement (R17, R24, R41). -/
def State.drainingReaction (s : State) (c : RailConfig) (r : RailIx) : View → Option State
  | .prerequisites => s.followLoss c r
  | .holds => if s.held r then none else some (s.release c r)
  | .demand => if s.demanded c.zone && s.zoneNormal c.zone then some (s.enter r .good) else none

/-- What rail `r` does, if anything, about the conditions as they stand (Table 10). Where two judgements move the same
rail, the occasion says which is taken first. -/
def State.react (s : State) (o : Occasion) (r : RailIx) : Option State :=
  match s.fittedConfig r with
  | none => none
  | some c =>
    match (s.rails.get r).state with
    | .off => if s.gateOpen c then some (s.enterWaiting c r) else none
    | .waiting =>
      if !s.gateOpen c then some (s.enter r .off)
      else if s.mayStart c r then some (s.enterSettling c r) else none
    | .settling =>
      if !s.gateOpen c then some (s.enter r .off)
      else if !s.allGood c r then some (s.enter r .waiting) else none
    | .ramping => s.followLoss c r
    | .good => (viewOrder o).findSome? (s.goodReaction c r)
    | .draining => (viewOrder o).findSome? (s.drainingReaction c r)
    | .falling => none
    | .fault => none

/-- Each rail in turn takes what concerns it, once. -/
def State.pass (s : State) (o : Occasion) : State :=
  (railOrder o).foldl (fun t r =>
    match t.react o r with
    | some u => u
    | none => t) s

/-- The four rail states. -/
def State.railStates (s : State) : Four RailState := Four.of (fun r => (s.rails.get r).state)

/-- The consequent events, pass after pass, until no rail moves (R32). `fuel` bounds the passes. -/
def State.settleFor (o : Occasion) : Nat → State → State
  | 0, s => s
  | fuel + 1, s =>
    if (s.pass o).railStates = s.railStates then s.pass o else State.settleFor o fuel (s.pass o)

/-- The consequent events of a change, taken to their end. Two hundred passes are more than four rails can use: within
them no rail becomes GOOD but from DRAINING, and the gates, the zones and the peers' parts stand still
(assumption 5). -/
def State.settle (s : State) (o : Occasion) : State := State.settleFor o 200 s

/-! ### Taking a change of the shelf view (R38, R76, R105) -/

/-- One judgement is made again from the peer table and own demand, for every rail or zone at once. -/
def State.takeView (s : State) : View → State
  | .prerequisites =>
    { s with rails := Four.of (fun r =>
        match s.fittedConfig r with
        | some c =>
          { s.rails.get r with
            remoteGood := s.remoteAll c (fun st => decide (st = .good))
            remoteUp := s.remoteAll c RailState.up }
        | none => { s.rails.get r with remoteGood := true, remoteUp := true }) }
  | .holds => { s with rails := Four.of (fun r => { s.rails.get r with peerHeld := s.peersHold r }) }
  | .demand =>
    { s with zones := { s.zones with
        entries := Eight.of (fun z => { s.zones.entries.get z with demanded := s.shelfDemand z }) } }

/-- One judgement is made again and its consequences are taken to their end. -/
def State.judge (s : State) (o : Occasion) (v : View) : State := (s.takeView v).settle o

/-- A report or a presence change reaches prerequisites, holds and demand, each as its own event (R105, R110). -/
def State.judgeAll (s : State) (o : Occasion) : State := (viewOrder o).foldl (fun t v => t.judge o v) s

/-- All three judgements made again while no rail is fitted or every rail is OFF, so that none moves. -/
def State.rejudge (s : State) : State := ((s.takeView .prerequisites).takeView .holds).takeView .demand

end Sys2Proof.Machine
end

