-- ==== Sys2Proof/Machine/Zones.lean ====
section
/-! DEFINITION. Zones.lean: the zone table (Chapter 4): own demand, local trips, entry to FAULT (R29), the zone bytes
of a frame by comparison and by adoption, clearing, and the choice of a trip part. -/

namespace Sys2Proof.Machine
open Sys2Proof

/-- Own demand worked out from the taken pin levels, the pin masks and the port demand mask; empty while no
configuration is loaded (R75). -/
def State.ownDemandNow (s : State) : Byte :=
  match s.startup.config with
  | some c =>
    (if s.zones.dem0.taken then c.dem0Mask else 0) ||| (if s.zones.dem1.taken then c.dem1Mask else 0)
      ||| s.port.portDemand
  | none => 0

/-- Own demand is worked out again (R75). -/
def State.workOutDemand (s : State) : State := { s with zones := { s.zones with ownDemand := s.ownDemandNow } }

/-- The trip record of own rail `r` faulting now (R29, R79, R82). -/
def State.tripRecordOf (s : State) (r : RailIx) (k : FaultKind) : TripRecord :=
  { station := s.own, rail := r, kind := k, cycle := s.line.cycle, slot := s.shelfSlot, offset := s.shelfOffset }

/-- A local trip of zone `z` (R82, R83): a NORMAL zone becomes TRIPPED at the same generation with the record and
ZONE_TRIPPED is set; in a TRIPPED zone the record is merged. The own rails of the zone are moved by R23. -/
def State.localTrip (s : State) (z : ZoneIx) (t : TripRecord) : State :=
  let e := s.zones.entries.get z
  (match e.condition with
   | .normal => (s.setZone z { e with condition := .tripped, record := some t }).setFlag .zoneTripped
   | .tripped => s.setZone z { e with record := some (mergeRecord e.record t) }).takeDownAll .trip
    (fun c => decide (c.zone = z))

/-- The faults a rail accepts in a state (R28). -/
def RailState.accepts : RailState → FaultKind → Bool
  | .off, .backfeed | .waiting, .backfeed | .settling, .backfeed => true
  | .ramping, .rampTimeout => true
  | .good, .window | .good, .pgLost | .draining, .window | .draining, .pgLost => true
  | .falling, .dischargeTimeout => true
  | _, _ => false

/-- Rail `r` enters FAULT, in the order of R29: timers idle and enable removed, the kind stored, the FAULT record
queued with the time in the state left, RAIL_FAULT set, and a local trip when the rail's trip flag is set. -/
def State.enterFault (s : State) (c : RailConfig) (r : RailIx) (k : FaultKind) : State :=
  let w := s.widthSince (s.rails.get r).since
  let t := s.enter r .fault
  let u := (t.setRail r { t.rails.get r with faultKind := k }).queueRecord (s.makeRecord r .fault (.kind k) w false)
  let v := u.setFlag .railFault
  if c.trip then v.localTrip c.zone (s.tripRecordOf r k) else v

/-- A fault handed to the sequencer: taken in a state that accepts its kind, without effect otherwise (R28, R69), and
its consequences (R70). -/
def State.faultRail (s : State) (o : Occasion) (r : RailIx) (k : FaultKind) : State :=
  match s.fittedConfig r with
  | none => s
  | some c => if (s.rails.get r).state.accepts k then (s.enterFault c r k).settle o else s

/-! ### Zone bytes from frames (R85 to R92) -/

/-- What a frame does to one zone: its new entry, whether its FAULT rails are released, whether its rails are moved by
R23, and the flags it sets. -/
structure ZoneOutcome where
  entry : Zone
  released : Bool
  moved : Bool
  trippedFlag : Bool
  clearedFlag : Bool
deriving DecidableEq, Repr

/-- A frame that leaves the zone as it is. -/
def ZoneOutcome.unchanged (e : Zone) : ZoneOutcome :=
  { entry := e, released := false, moved := false, trippedFlag := false, clearedFlag := false }

/-- The record a frame's trip part gives for zone `z`: that of a part kept by the range check that names `z`. -/
def partFor (part : Option (ZoneIx × TripRecord)) (z : ZoneIx) : Option TripRecord :=
  match part with
  | some (p, t) => if p = z then some t else none
  | none => none

/-- A zone in ACTIVE and MUTED, by the comparison of generations (Table 23, R87 to R89). `g` and `tripped` are the
frame's view of the zone, `rec` the record of its part when the part names the zone. -/
def compareZone (e : Zone) (g : Byte) (tripped : Bool) (part : Option TripRecord) : ZoneOutcome :=
  if newerGeneration g e.generation then
    if tripped then
      { entry := { e with generation := g, condition := .tripped, record := part }, released := true, moved := true,
        trippedFlag := true, clearedFlag := false }
    else
      { entry := { e with generation := g, condition := .normal, record := none }, released := true, moved := false,
        trippedFlag := false, clearedFlag := true }
  else if g = e.generation && tripped then
    match e.condition with
    | .normal =>
      { entry := { e with condition := .tripped, record := part }, released := false, moved := true,
        trippedFlag := true, clearedFlag := false }
    | .tripped =>
      match part with
      | some t => ZoneOutcome.unchanged { e with record := some (mergeRecord e.record t) }
      | none => ZoneOutcome.unchanged e
  else ZoneOutcome.unchanged e

/-- A zone in LISTEN, by adoption (R91). -/
def adoptZone (e : Zone) (g : Byte) (tripped : Bool) (part : Option TripRecord) : ZoneOutcome :=
  if tripped then
    { entry :=
        { e with
          generation := g
          condition := .tripped
          record :=
            match part with
            | some t => some t
            | none => if g = e.generation && decide (e.condition = .tripped) then e.record else none }
      released := newerGeneration g e.generation
      moved := true
      trippedFlag := decide (e.condition = .normal)
      clearedFlag := false }
  else
    { entry := { e with generation := g, condition := .normal, record := none }
      released := newerGeneration g e.generation
      moved := false
      trippedFlag := false
      clearedFlag := decide (e.condition = .tripped) || newerGeneration g e.generation }

/-- What a valid frame does to zone `z`: adoption in LISTEN, comparison otherwise (R85). -/
def State.zoneOutcome (s : State) (f : Frame) (z : ZoneIx) : ZoneOutcome :=
  let part := match f.part with
    | some p => partFor (p.accepted s.shelfSize f.tripMask) z
    | none => none
  let judgeZone := if s.line.phase = .listen then adoptZone else compareZone
  judgeZone (s.zones.entries.get z) (f.generations.get z) (names f.tripMask z) part

/-- The zone table takes a valid frame's zone bytes as one event (R90): all entries change together, then FAULT rails
are released and the moves of R23 are made in one step for all zones, then their consequences are taken. -/
def State.takeZoneBytes (s : State) (o : Occasion) (f : Frame) : State :=
  let out := Eight.of (s.zoneOutcome f)
  let t := { s with zones := { s.zones with entries := Eight.of (fun z => (out.get z).entry) } }
  let u := (t.setFlagIf (ZoneIx.all.any (fun z => (out.get z).trippedFlag)) .zoneTripped).setFlagIf
    (ZoneIx.all.any (fun z => (out.get z).clearedFlag)) .zoneCleared
  ((u.releaseFaults (fun z => (out.get z).released)).takeDownAll .trip (fun c => (out.get c.zone).moved)).settle o

/-! ### Clearing a zone (R93) -/

/-- CLEAR_ZONE z: the generation advances, the condition becomes NORMAL, the record is removed, the FAULT rails of the
zone are released and ZONE_CLEARED is set. -/
def State.clear (s : State) (o : Occasion) (z : ZoneIx) : State :=
  let e := s.zones.entries.get z
  let t := s.setZone z { e with generation := e.generation + 1, condition := .normal, record := none }
  ((t.releaseFaults (fun y => decide (y = z))).setFlag .zoneCleared).settle o

/-! ### Zone bytes in own frames (R97, R98) -/

/-- The zones in the order in which the search for a trip part looks at them: from the one after the last part zone,
wrapping from Z7 to Z0, the last part zone itself last (R98). -/
def partSearch (last : ZoneIx) : List ZoneIx :=
  (List.range 8).map (fun i => ZoneIx.ofIndex (last.toNat + 1 + i))

/-- The next zone for the trip part: the first eligible one, TRIPPED with its record present (R98). -/
def State.nextPartZone (s : State) : Option ZoneIx :=
  (partSearch s.zones.lastPart).find? (fun z =>
    decide ((s.zones.entries.get z).condition = .tripped) && (s.zones.entries.get z).record.isSome)

/-- The trip mask: every zone whose condition is TRIPPED (R97). -/
def State.tripMask (s : State) : Byte :=
  zoneMask (fun z => decide ((s.zones.entries.get z).condition = .tripped))

end Sys2Proof.Machine
end

