-- ==== Sys2Proof/Machine/Monitor.lean ====
section
/-! DEFINITION. Monitor.lean: the rail monitor (Chapter 3) and the rail timers: SAMPLE, SETTLE_TIMER_EXPIRY,
RAMP_TIMEOUT, DRAIN_FORCED, DRAIN_CONTINUED, DISCHARGE_TIMEOUT and PG_LOST. -/

namespace Sys2Proof.Machine
open Sys2Proof

/-- Sample classes (Table 15). -/
inductive SampleClass where
  | below | inWindow | outside
deriving DecidableEq, Repr

/-- The class of a count for a rail (R54). -/
def classify (c : RailConfig) (v : Nat) : SampleClass :=
  if v < c.dischargeLevel then .below
  else if c.nominal - c.magnitude ≤ v ∧ v ≤ c.nominal + c.magnitude then .inWindow
  else .outside

/-- A rail in RAMPING takes its first qualifying sample (R13): a RAMP record, then GOOD when its zone is demanded and
DRAINING when it is not. -/
def State.qualify (s : State) (o : Occasion) (c : RailConfig) (r : RailIx) : State :=
  let t := s.queueRecord (s.makeRecord r .ramp .none (s.widthSince (s.rails.get r).since) false)
  (if t.demanded c.zone then t.enter r .good else t.enterDraining c r).settle o

/-- A rail in FALLING takes its first sample below the discharge level (R20): a DISCHARGE record with the fall cause,
then OFF, where the start gate is judged. -/
def State.discharged (s : State) (o : Occasion) (r : RailIx) : State :=
  let x := s.rails.get r
  let t := s.queueRecord (s.makeRecord r .discharge (.cause x.fallCause) (s.widthSince x.since) false)
  (t.enter r .off).settle o

/-- What a sample's PG level does to a rail in GOOD or DRAINING that uses PG (R59 to R61): the state after it, and
whether it is itself a PG_LOST fault. -/
def State.supervisePg (s : State) (c : RailConfig) (r : RailIx) : State × Bool :=
  let m := s.monitor.rails.get r
  if !c.pgUsed then (s, false)
  else
    match m.deglitch with
    | none =>
      if m.pg then (s, false)
      else if c.pgDeglitch = 0 then (s, true)
      else (s.setMonitor r { m with deglitch := some { start := s.now, length := c.pgDeglitch } }, false)
    | some t =>
      if m.pg then
        ((s.setMonitor r { m with deglitch := none }).queueRecord
          (s.makeRecord r .dropout .none (s.widthSince t.start) false), false)
      else (s, false)

/-- A sample of a rail in GOOD or DRAINING (R57 to R63). The sample is taken whole, PG included, before the state change
it causes (R55, assumption 13); one sample gives one fault, WINDOW before PG_LOST (R63). A deglitch timer that was due
before the sample has expired first, so that no dropout is measured beyond the deglitch (R62, R157, assumption 2). -/
def State.supervise (s : State) (o : Occasion) (c : RailConfig) (r : RailIx) (cls : SampleClass) : State :=
  let m := s.monitor.rails.get r
  if c.pgUsed && s.overdue m.deglitch then s.faultRail o r .pgLost
  else
    let count := if cls = .inWindow then 0 else m.outside + 1
    let t := s.setMonitor r { m with outside := count }
    let u := t.supervisePg c r
    if cls ≠ .inWindow ∧ c.persistence ≤ count then u.1.faultRail o r .window
    else if u.2 then u.1.faultRail o r .pgLost
    else u.1

/-- A sample of a rail in OFF, WAITING or SETTLING (R66): consecutive samples at or above the discharge level are
counted, and the count reaching the persistence is a BACKFEED. -/
def State.watchBackfeed (s : State) (o : Occasion) (c : RailConfig) (r : RailIx) (cls : SampleClass) : State :=
  let m := s.monitor.rails.get r
  let count := if cls = .below then 0 else m.outside + 1
  let t := s.setMonitor r { m with outside := count }
  if cls ≠ .below ∧ c.persistence ≤ count then t.faultRail o r .backfeed else t

/-- The monitor acts on the stored sample of rail `r` by the state the rail is in (R53, R55, R56, R65, R68). A ramp or
discharge timer that was due before the sample has expired first (R14, R21), so that no width is measured beyond its
timeout (R157, assumption 2). -/
def State.actOnSample (s : State) (o : Occasion) (r : RailIx) : State :=
  match s.fittedConfig r with
  | none => s
  | some c =>
    let m := s.monitor.rails.get r
    let cls := classify c m.lastSample.toNat
    match (s.rails.get r).state with
    | .ramping =>
      if s.overdue (s.rails.get r).ramp then s.faultRail o r .rampTimeout
      else if cls = .inWindow ∧ (c.pgUsed = false ∨ m.pg = true) then s.qualify o c r else s
    | .falling =>
      if s.overdue (s.rails.get r).discharge then s.faultRail o r .dischargeTimeout
      else if cls = .below then s.discharged o r else s
    | .good => s.supervise o c r cls
    | .draining => s.supervise o c r cls
    | .off => s.watchBackfeed o c r cls
    | .waiting => s.watchBackfeed o c r cls
    | .settling => s.watchBackfeed o c r cls
    | .fault => s

/-- The first sample instant of the 200 µs grid that is not before `t` (R52). -/
def sampleInstant (next t : Nat) : Nat :=
  next + (t - next + (Config.samplePeriod - 1)) / Config.samplePeriod * Config.samplePeriod

/-- The counts and PG levels of one sample instant overwrite the last ones (R52). -/
def State.storeSamples (s : State) (counts : Four (BitVec 12)) (pg : Four Bool) : State :=
  { s with monitor := { s.monitor with
      rails := Four.of (fun r => { s.monitor.rails.get r with lastSample := counts.get r, pg := pg.get r }) } }

/-- SAMPLE (R52): at the next sample instant all four inputs are stored, and each fitted rail takes its sample. In
reset the monitor does not sample (R165). The consequences of one rail's sample (its fault, its zone's trip, the moves
that follow) are taken before the next rail's sample; R55, R69 and R70 leave this order open (assumption 27). -/
def execSample (o : Occasion) (counts : Four (BitVec 12)) (pg : Four Bool) (s : State) :
    Host.Outcome State Fault Refusal :=
  let s := s.after o
  if s.startup.inReset.isSome then .next s
  else
    let at_ := sampleInstant s.monitor.nextSample s.now
    let t := s.notBefore at_
    let u := { t with monitor := { t.monitor with nextSample := at_ + Config.samplePeriod } }
    .next ((railOrder o).foldl (fun v r => v.actOnSample o r) (u.storeSamples counts pg))

/-- SETTLE_TIMER_EXPIRY (R12): a rail in SETTLING whose settle timer expires goes to RAMPING. Without a running settle
timer there is no expiry (R31). -/
def execSettleTimerExpiry (o : Occasion) (r : RailIx) (s : State) : Host.Outcome State Fault Refusal :=
  let s := s.after o
  match s.fittedConfig r, (s.rails.get r).settle with
  | some c, some t =>
    let s := s.notBefore t.due
    if (s.rails.get r).state = .settling ∧ s.allUp c r = true then .next ((s.enterRamping c r).settle o) else .next s
  | _, _ => .next s

/-- RAMP_TIMEOUT (R14): a rail in RAMPING whose ramp timer expires faults. -/
def execRampTimeout (o : Occasion) (r : RailIx) (s : State) : Host.Outcome State Fault Refusal :=
  let s := s.after o
  match (s.rails.get r).ramp with
  | some t => .next ((s.notBefore t.due).faultRail o r .rampTimeout)
  | none => .next s

/-- DISCHARGE_TIMEOUT (R21): a rail in FALLING whose discharge timer expires faults. -/
def execDischargeTimeout (o : Occasion) (r : RailIx) (s : State) : Host.Outcome State Fault Refusal :=
  let s := s.after o
  match (s.rails.get r).discharge with
  | some t => .next ((s.notBefore t.due).faultRail o r .dischargeTimeout)
  | none => .next s

/-- PG_LOST (R62): the running deglitch timer of a rail in GOOD or DRAINING expires and the rail faults. -/
def execPgLost (o : Occasion) (r : RailIx) (s : State) : Host.Outcome State Fault Refusal :=
  let s := s.after o
  match (s.monitor.rails.get r).deglitch with
  | some t => .next ((s.notBefore t.due).faultRail o r .pgLost)
  | none => .next s

/-- DRAIN_FORCED (R42): the drain timer of a rail in DRAINING expires: a DRAIN_FORCED record whose width is the drain
timeout, and the rail falls with cause DEMAND whether held or not. -/
def execDrainForced (o : Occasion) (r : RailIx) (s : State) : Host.Outcome State Fault Refusal :=
  let s := s.after o
  match s.fittedConfig r, (s.rails.get r).drain with
  | some c, some t =>
    let s := s.notBefore t.due
    if (s.rails.get r).state = .draining then
      .next (((s.queueRecord (s.makeRecord r .drainForced .none c.drainTimeout false)).enterFalling c r .demand).settle o)
    else .next s
  | _, _ => .next s

/-- DRAIN_CONTINUED (R44): the width of a drain with no limit reaches 65,535 ticks: a continued DRAIN record, and the
width starts again from 0. -/
def execDrainContinued (o : Occasion) (r : RailIx) (s : State) : Host.Outcome State Fault Refusal :=
  let s := s.after o
  match s.fittedConfig r with
  | some c =>
    if (s.rails.get r).state = .draining ∧ c.drainTimeout = 0 then
      let end_ := (s.rails.get r).drainFrom + Config.widthLimit * Config.tick
      let s := s.notBefore end_
      .next ((s.queueRecord (s.makeRecord r .drain .none Config.widthLimit true)).setRail r
        { s.rails.get r with drainFrom := end_ })
    else .next s
  | none => .next s

end Sys2Proof.Machine
end

