-- ==== Sys2Proof/Machine/Peers.lean ====
section
/-! DEFINITION. Peers.lean: the peer table (Chapter 5): taking a report, taking a LEAVING frame, the slot-end miss
check, and the own entry. -/

namespace Sys2Proof.Machine
open Sys2Proof

/-- Peer entry `n` changed by `g`. -/
def State.updatePeer (s : State) (n : Nat) (g : Peer → Peer) : State := { s with peers := s.peers.modify n g }

/-- The presence of entry `n`; none when the table holds no such entry. -/
def State.presenceOf (s : State) (n : Nat) : Option Presence := (s.peers[n]?).map (·.presence)

/-- The entry after a valid frame: a report taken whole (R104), or the sender marked LOST with empty demand and holds
when the frame is a LEAVING one (R106). -/
def Peer.taking (f : Frame) (p : Peer) : Peer :=
  { p with
    presence := if f.leaving then .lost else .present
    misses := 0
    rails := f.rails
    demand := if f.leaving then 0 else f.demand
    holds := if f.leaving then [] else f.holds
    lastCycle := f.cycle
    heard := true }

/-- The peer table takes a valid frame (R104, R106): PEER_FOUND when a LOST peer returns, PEER_LOST when a PRESENT one
leaves; the change is handed on whole to prerequisites, holds and demand (R105). -/
def State.takeReport (s : State) (o : Occasion) (f : Frame) : State :=
  let n := f.station.toNat
  let found := decide (s.presenceOf n = some .lost) && !f.leaving
  let lost := decide (s.presenceOf n = some .present) && f.leaving
  (((s.updatePeer n (Peer.taking f)).setFlagIf found .peerFound).setFlagIf lost .peerLost).judgeAll o

/-- The entry after a missed slot (R107): one more miss, LOST at the third. -/
def Peer.missed (p : Peer) : Peer :=
  { p with misses := p.misses + 1, presence := if 3 ≤ p.misses + 1 then .lost else p.presence }

/-- The check at the end of slot `k` (R107): a PRESENT entry with no valid frame taken since the start of the slot gains
a miss, and at the third becomes LOST with PEER_LOST. -/
def State.missCheck (s : State) (o : Occasion) (k : Nat) : State :=
  match s.peers[k]? with
  | some p =>
    if p.presence = .present ∧ p.heard = false then
      ((s.updatePeer k Peer.missed).setFlagIf (decide (3 ≤ p.misses + 1)) .peerLost).judgeAll o
    else s
  | none => s

/-- The own entry becomes LOST when the line phase leaves ACTIVE (R113, R121), also an entry still ABSENT because no
frame was built since the load: R117 would have it stay ABSENT until the first build (assumption 25). -/
def State.ownEntryLost (s : State) : State :=
  if s.line.phase = .active then s.updatePeer s.own (fun p => { p with presence := .lost }) else s

end Sys2Proof.Machine
end

