-- ==== Sys2Proof/Machine/Line.lean ====
section
/-! DEFINITION. Line.lean: line access (Chapter 6): phases, slots and cycles, synchronisation, cold start, the own
frame, collisions and muting. -/

namespace Sys2Proof.Machine
open Sys2Proof

/-! ### Phase changes (R121) -/

/-- LEAVING DUE is dropped when the station enters MUTED or LISTEN (R135). -/
def Leaving.dropped : Leaving → Leaving
  | .due => .none
  | .none => .none
  | .done => .done

/-- Entry to LISTEN (R127): timing dropped, listen count 0, silence timer from 0, cold-start mark clear. The own entry
becomes LOST when the phase leaves ACTIVE (R113). -/
def State.enterListen (s : State) : State :=
  { s.ownEntryLost with line := { s.line with
      phase := .listen, timingHeld := false, listenCount := 0, silence := some s.now, coldMark := false
      leaving := s.line.leaving.dropped } }

/-- Entry to MUTED (R136): the mute cause, LINE_MUTED, cold-start mark clear, silence timer idle, listen count 0; the
slot timer and the timing stay. -/
def State.enterMuted (s : State) (cause : MuteCause) : State :=
  ({ s.ownEntryLost with
      line := { s.line with
        phase := .muted, listenCount := 0, silence := none, coldMark := false, leaving := s.line.leaving.dropped }
      receiver := { s.receiver with muteCause := cause } }).setFlag .lineMuted

/-! ### Frames used for timing (R123, R125, R126) -/

/-- A cycle number ahead of the own one is taken (R123). -/
def adoptCycle (own heard : Half) : Half := if cycleAhead heard own then heard else own

/-- Whether a frame from station `k` that started at `t0` started within 20 µs of 10 µs after the nearest start of
slot `k`, by the slot timer `t` of a shelf of size `n` (R126). -/
def inSlotWindow (t : SlotTimer) (n k t0 : Nat) : Bool :=
  let period : Int := n * Config.slotLength
  let apart : Int :=
    ((t0 : Int) - Config.buildDelay - t.start - ((k : Int) - t.slot) * Config.slotLength) % period
  decide (apart ≤ Config.syncTolerance ∨ period - Config.syncTolerance ≤ apart)

/-- The slot timer set so that slot `k` started 10 µs before `t0`, and the frame's cycle number offered (R125, R126). -/
def State.setTiming (s : State) (k t0 : Nat) (cycle : Half) : State :=
  { s with line := { s.line with
      slotTimer := some { slot := k, start := t0 - Config.buildDelay }, timingHeld := true, syncSinceLoad := true
      cycle := adoptCycle s.line.cycle cycle, silence := none } }

/-- Line access takes a valid frame: it synchronises the station (R125), realigns it (R126), or is OUT_OF_SLOT and
counted (R151). -/
def State.takeTiming (s : State) (f : Frame) (t0 : Nat) : State :=
  let k := f.station.toNat
  match s.line.slotTimer with
  | some t =>
    if !s.line.timingHeld || inSlotWindow t s.shelfSize k t0 then s.setTiming k t0 f.cycle
    else { s with receiver := { s.receiver with outOfSlot := saturate s.receiver.outOfSlot } }
  | none => s

/-! ### SLOT_BOUNDARY (R122) -/

/-- The end of slot `k`: an own slot with a frame begun returns the send state to IDLE and ends BLOCKED (R131, R142);
while timing is held, the miss check of another station's slot is made (R107, R112). -/
def State.slotEnd (s : State) (o : Occasion) (k : Nat) : State :=
  let t :=
    if k = s.own ∧ s.line.send ≠ .idle then
      { s with
        line := { s.line with send := .idle, tx := none }
        receiver := { s.receiver with
          reception := if s.receiver.reception = .blocked then .waiting none else s.receiver.reception } }
    else s
  if t.line.timingHeld ∧ k ≠ t.own then t.missCheck o k else t

/-- The listen period at a slot start (R128): one more slot counted, up to N; the start that makes the count N takes
the station to ACTIVE unless a restart is pending. -/
def State.countListen (s : State) (o : Occasion) : State :=
  if s.line.phase = .listen ∧ s.line.listenCount < s.shelfSize then
    let n := s.line.listenCount + 1
    if n = s.shelfSize ∧ s.startup.restartPending = false then
      ({ s with line := { s.line with listenCount := n, phase := .active } }).settle o
    else { s with line := { s.line with listenCount := n } }
  else s

/-- The start of slot `k` at instant `t` (R122, R123, R128): the slot timer moves on; while timing is held, a start of
slot 0 advances the cycle number and a start in LISTEN is counted. -/
def State.slotStart (s : State) (o : Occasion) (k t : Nat) : State :=
  let u := { s.updatePeer k (fun p => { p with heard := false }) with
    line := { s.line with
      slotTimer := some { slot := k, start := t }
      cycle := if s.line.timingHeld && decide (k = 0) then s.line.cycle + 1 else s.line.cycle } }
  if u.line.timingHeld then u.countListen o else u

/-- SLOT_BOUNDARY (R122): the end of one slot and the start of the next are one instant; the occasion says which is
taken first. A stopped slot timer reaches no boundary. -/
def execSlotBoundary (o : Occasion) (s : State) : Host.Outcome State Fault Refusal :=
  let s := s.after o
  match s.line.slotTimer with
  | none => .next s
  | some t =>
    let end_ := t.start + Config.slotLength
    let s := s.notBefore end_
    let next := if t.slot + 1 < s.shelfSize then t.slot + 1 else 0
    if o.startFirst then .next ((s.slotStart o next end_).slotEnd o t.slot)
    else .next ((s.slotEnd o t.slot).slotStart o next end_)

/-! ### FRAME_BUILD (R131, R35, R97, R98, R135) -/

/-- The hold list: the remote prerequisites of fitted rails in a held state, ascending, each once (R35). -/
def State.holdList (s : State) : List Byte :=
  match s.startup.config with
  | some c => remoteBytes c.rails s.own (fun r => (s.rails.get r).state.relies)
  | none => []

/-- The trip part of an ordinary frame (R98). -/
def State.partNow (s : State) : Option TripPart :=
  match s.nextPartZone with
  | some z => (s.zones.entries.get z).record.map (fun t => t.toPart z)
  | none => none

/-- The frame built now from the blocks as they stand; a LEAVING frame has an empty demand mask and hold list and no
trip part (R131, R135). -/
def State.buildFrame (s : State) (img : Image) (leaving : Bool) : Frame :=
  { station := toByte s.own
    leaving := leaving
    signature := img.signature
    cycle := s.line.cycle
    rails := Four.of s.shownState
    demand := if leaving then 0 else s.zones.ownDemand
    generations := Eight.of (fun z => (s.zones.entries.get z).generation)
    tripMask := s.tripMask
    holds := if leaving then [] else s.holdList
    part := if leaving then none else s.partNow }

/-- The own entry as a build sets it (R113). -/
def Peer.built (f : Frame) (p : Peer) : Peer :=
  { p with
    presence := if f.leaving then .lost else .present
    misses := 0
    rails := f.rails
    demand := f.demand
    holds := f.holds
    lastCycle := f.cycle }

/-- Whether an own frame is due in the current slot (R131): ACTIVE with timing held, in the own slot, none begun in
it, and not withdrawn by a restart whose LEAVING frame is DONE. -/
def State.buildDue (s : State) : Bool :=
  decide (s.line.phase = .active) && s.line.timingHeld && decide (s.line.send = .idle)
    && !(s.startup.restartPending && decide (s.line.leaving = .done))

/-- FRAME_BUILD (R131): 10 µs after the start of the own slot the frame is built and its sending begins; a frame being
received is abandoned and the receiver is BLOCKED (R134); the own entry is set (R113); the last part zone moves on,
but for a LEAVING frame (R98). -/
def execFrameBuild (o : Occasion) (s : State) : Host.Outcome State Fault Refusal :=
  let s := s.after o
  match s.startup.config, s.line.slotTimer with
  | some img, some t =>
    if t.slot = s.own ∧ s.buildDue = true then
      let s := s.notBefore (t.start + Config.buildDelay)
      let leaving := decide (s.line.leaving = .due)
      let f := s.buildFrame img leaving
      .next { s.updatePeer s.own (Peer.built f) with
        zones := { s.zones with
          lastPart := if leaving then s.zones.lastPart else s.nextPartZone.getD s.zones.lastPart }
        line := { s.line with
          send := .sending, tx := some { bytes := f.toBytes, start := s.now, leaving := leaving } }
        receiver := { s.receiver with reception := .blocked } }
    else .next s
  | _, _ => .next s

/-- Whether the station drives the dominant level now: the bit of its frame running is a 0 (R119, R132). -/
def State.drivesDominant (s : State) : Bool :=
  match s.line.send, s.line.tx with
  | .sending, some f => (lineBits f.bytes)[(s.now - f.start) / Config.us 1]? = some false
  | _, _ => false

/-! ### COLLISION, OWN_FRAME_END, COLD_START (R129, R130, R133) -/

/-- COLLISION (R133): the frame is cut off and counted. A cold-start frame sends the station back to LISTEN (R130); any
other counts a consecutive collision, and the third mutes the station (R136). A LEAVING frame cut off is DONE (R135). -/
def execCollision (o : Occasion) (s : State) : Host.Outcome State Fault Refusal :=
  let s := s.after o
  match s.line.send, s.line.tx with
  | .sending, some f =>
    let s := { s with
      line := { s.line with
        send := .cutOff, tx := none, leaving := if f.leaving then .done else s.line.leaving }
      receiver := { s.receiver with collisions := saturate s.receiver.collisions } }
    if s.line.coldMark then .next (s.enterListen.settle o)
    else
      let n := s.receiver.consecutive + 1
      let s := { s with receiver := { s.receiver with consecutive := min 3 n } }
      if 3 ≤ n then .next ((s.enterMuted .collision).settle o) else .next s
  | _, _ => .next s

/-- OWN_FRAME_END (R133): the own frame is read back clean to its last stop bit: consecutive collisions 0, the
cold-start mark cleared (R130), a LEAVING frame DONE (R135). The send state stays SENDING to the end of the slot. -/
def execOwnFrameEnd (o : Occasion) (s : State) : Host.Outcome State Fault Refusal :=
  let s := s.after o
  match s.line.send, s.line.tx with
  | .sending, some f =>
    let s := s.notBefore (f.start + Config.us (10 * f.bytes.length))
    .next { s with
      line := { s.line with
        tx := none, coldMark := false, leaving := if f.leaving then .done else s.line.leaving }
      receiver := { s.receiver with consecutive := 0 } }
  | _, _ => .next s

/-- The silence wait of a station: (N + own station number) × 450 µs (R129). -/
def State.silenceWait (s : State) : Nat := (s.shelfSize + s.own) * Config.slotLength

/-- COLD_START (R129): the silence timer reaches its length in LISTEN without timing held. The station sets its own
timing and enters ACTIVE; with a restart pending the timer stops and the station stays silent. -/
def execColdStart (o : Occasion) (s : State) : Host.Outcome State Fault Refusal :=
  let s := s.after o
  match s.line.silence with
  | none => .next s
  | some t =>
    if s.line.phase = .listen ∧ s.line.timingHeld = false then
      let s := s.notBefore (t + s.silenceWait)
      if s.startup.restartPending then .next { s with line := { s.line with silence := none } }
      else
        .next (({ s with line := { s.line with
          phase := .active, slotTimer := some { slot := s.own, start := s.now }, timingHeld := true
          cycle := if s.line.syncSinceLoad then s.line.cycle else 0
          silence := none, coldMark := true } }).settle o)
    else .next s

/-- What a frame start at instant `t` makes of the reception state (R142). In WAITING it is received, but for one that
comes at most 20 µs after the last stop bit of a frame judged at its expected length: its bytes follow with no gap of
more than 20 µs and are not received (R144, assumption 19). -/
def Reception.atFrameStart (x : Reception) (t : Nat) : Reception :=
  match x with
  | .waiting none => .receiving t
  | .waiting (some ended) => if ended + Config.frameGap < t then .receiving t else x
  | .off | .receiving _ | .blocked => x

/-- FRAME_START (R119, R142): the silence timer goes back to 0 in every reception state but OFF, and a receiver in
WAITING begins a frame, unless the line has not rested for more than 20 µs since the frame judged last (R144). In
RECEIVING the frame under way goes on until it is judged (R144, assumption 19); in BLOCKED the frame is not received.
The model's choice: the instant stays the start of the frame also where that edge proves too short to be a start bit,
where R143 may be read to begin the frame at the start bit of its first byte (assumption 28). -/
def execFrameStart (o : Occasion) (s : State) : Host.Outcome State Fault Refusal :=
  let s := s.after o
  if s.receiver.reception = .off then .next s
  else
    .next { s with
      line := { s.line with silence := s.line.silence.map (fun _ => s.now) }
      receiver := { s.receiver with
        reception := s.receiver.reception.atFrameStart s.now } }

end Sys2Proof.Machine
end

