-- ==== Sys2Proof/Machine/Receiver.lean ====
section
/-! DEFINITION. Receiver.lean: the frame receiver (Chapter 7): judging a frame, refusing it, handing it on; a duplicate
frame (R137); FRAME_RECEIVED and RECEPTION_GAP. -/

namespace Sys2Proof.Machine
open Sys2Proof

/-- A duplicate frame (R137): it mutes a station in LISTEN or ACTIVE; in MUTED it sets the mute cause alone. -/
def State.takeDuplicate (s : State) (o : Occasion) : State :=
  match s.line.phase with
  | .listen => (s.enterMuted .duplicate).settle o
  | .active => (s.enterMuted .duplicate).settle o
  | .muted => { s with receiver := { s.receiver with muteCause := .duplicate } }
  | .start => s
  | .unconfigured => s

/-- A refused frame (R149): its error kind is kept and it is counted; a duplicate is handed to line access. -/
def State.refuseFrame (s : State) (o : Occasion) (e : ErrorKind) : State :=
  let t := { s with receiver := { s.receiver with
    lastError := e, receiveErrors := saturate s.receiver.receiveErrors } }
  if e = .duplicate then t.takeDuplicate o else t

/-- A valid frame handed to one block (R150). -/
def State.handTo (s : State) (o : Occasion) (f : Frame) (t0 : Nat) : Block → State
  | .lineAccess => s.takeTiming f t0
  | .peerTable => s.takeReport o f
  | .zoneTable => s.takeZoneBytes o f

/-- A valid frame handed to line access, the peer table and the zone table, each as its own event, in the occasion's
order (R150, R90). -/
def State.takeFrame (s : State) (o : Occasion) (f : Frame) (t0 : Nat) : State :=
  (blockOrder o).foldl (fun t b => t.handTo o f t0 b) s

/-- A frame that started at `t0` is judged (R145) and the receiver looks for the next frame start (R144): `ended` is the
end of a frame complete at its expected length, none after a gap, which is the rest that R144 asks for. -/
def State.judgeReceived (s : State) (o : Occasion) (t0 : Nat) (ended : Option Nat) (rx : List RxByte) : State :=
  let t := { s with receiver := { s.receiver with reception := .waiting ended } }
  match s.startup.config with
  | none => t
  | some img =>
    match judgeFrame img s.own rx with
    | .refused e => t.refuseFrame o e
    | .valid f => t.takeFrame o f t0

/-- FRAME_RECEIVED (R144, R145): the expected number of bytes is complete, at the end of the last stop bit, and the
frame is judged. That instant is the end of the frame. Bytes beyond the expected ones are not received; short of them nothing is judged yet. A receiver that
is not RECEIVING takes no frame (R142). -/
def execFrameReceived (o : Occasion) (bytes : List RxByte) (s : State) : Host.Outcome State Fault Refusal :=
  let s := s.after o
  match s.receiver.reception, expectedLength (bytes.map (·.data)) with
  | .receiving t0, some n =>
    if n ≤ bytes.length then
      let s := s.notBefore (t0 + Config.us (10 * n))
      .next (s.judgeReceived o t0 (some s.now) (bytes.take n))
    else .next s
  | _, _ => .next s

/-- RECEPTION_GAP (R144): the line rests recessive for more than 20 µs in mid-frame and the bytes received are judged.
A frame start after which no byte was cut yields no frame. -/
def execReceptionGap (o : Occasion) (bytes : List RxByte) (s : State) : Host.Outcome State Fault Refusal :=
  let s := s.after o
  match s.receiver.reception with
  | .receiving t0 =>
    let s := s.notBefore (t0 + Config.us (10 * bytes.length) + Config.frameGap)
    if bytes.isEmpty then .next { s with receiver := { s.receiver with reception := .waiting none } }
    else .next (s.judgeReceived o t0 none bytes)
  | _ => .next s

end Sys2Proof.Machine
end

