-- ==== Sys2Proof/Machine/Startup.lean ====
section
/-! DEFINITION. Startup.lean: power-on, RESET_N, the configuration load, the warm restart's reinitialisation (Chapter
9), and the demand pins (R74). -/

namespace Sys2Proof.Machine
open Sys2Proof

/-! ### The configuration load (R166 to R172) -/

/-- A configuration load begins (R166): loading, phase START, configuration absent, straps read; with no configuration
there are no peer entries, own demand is empty and every rail is handled as not fitted. -/
def State.beginLoad (s : State) (straps : BitVec 5) : State :=
  ({ s with
      startup := { s.startup with load := .loading s.now, config := none, station := straps }
      line := { s.line with phase := .start, slotTimer := none }
      receiver := { s.receiver with reception := .off }
      peers := [] }).workOutDemand.rejudge

/-- CM_CS_N is low: the memory transaction of a load is under way, 444 µs from its start (R167). -/
def State.memorySelected (s : State) : Bool :=
  match s.startup.load with
  | .loading t => decide (s.now < t + Config.loadShortest)
  | .idle => false

/-- The bytes sent on CM_MOSI in that transaction: a read of memory address 0, then 00h while the image comes in (R167). -/
def memoryCommand : List Byte := [0x03, 0x00, 0x00] ++ List.replicate Config.imageLength 0x00

/-- The level of CM_SCK (R167): low between transactions; within each bit of 500 ns low first, so that the rising edge
comes after the bit was set up, then high (assumption 22 for the two halves). -/
def State.memoryClock (s : State) : Bool :=
  match s.startup.load with
  | .loading t => s.memorySelected && decide (Config.memoryBit / 2 ≤ (s.now - t) % Config.memoryBit)
  | .idle => false

/-- The level of CM_MOSI (R167): the bits of the bytes sent, most significant first, each from the falling edge before it
(the first from the fall of CM_CS_N) to the next; none outside a transaction, where the manual names no level. -/
def State.memoryData (s : State) : Option Bool :=
  match s.startup.load with
  | .loading t => if s.memorySelected then (serialBits memoryCommand)[(s.now - t) / Config.memoryBit]? else none
  | .idle => none

/-- A load succeeds (R171): the configuration is put in force and every block takes it; the station enters LISTEN with
its slot timer at slot 0 (R127, R140). -/
def State.loadSucceeds (s : State) (o : Occasion) (img : Image) : State :=
  let t := { s with
    startup := { s.startup with
      config := some img, error := .none, errorRail := .r0, load := .idle, restartPending := false }
    rails := Four.of (fun r => { s.rails.get r with since := s.now })
    monitor := { s.monitor with
      rails := Four.of (fun r => { s.monitor.rails.get r with outside := 0, deglitch := none }) }
    peers := List.replicate img.shelfSize Peer.cleared
    line := { s.line with slotTimer := some { slot := 0, start := s.now }, syncSinceLoad := false }
    receiver := { s.receiver with reception := .waiting none } }
  t.enterListen.workOutDemand.rejudge.settle o

/-- A load fails (R172): the error is kept, the phase becomes UNCONFIGURED and CONFIG_FAULT is set. -/
def State.loadFails (s : State) (e : ConfigErrorKind) (r : RailIx) : State :=
  ({ s with
      startup := { s.startup with
        config := none, error := e, errorRail := r, load := .idle, restartPending := false }
      line := { s.line with phase := .unconfigured } }).setFlag .configFault

/-- CONFIGURATION_LOAD_END (R168): the image read is judged by the seven checks, 444 µs to 500 µs after the load began
(R166). With no load under way nothing ends. -/
def execConfigurationLoadEnd (o : Occasion) (image : List Byte) (s : State) : Host.Outcome State Fault Refusal :=
  let t := s.after o
  match s.startup.load with
  | .idle => .next t
  | .loading began =>
    let took := min Config.loadLongest (max Config.loadShortest (t.now - began))
    let u := { s with now := max s.now (began + took) }
    match judgeImage u.own image with
    | .refused e r => .next (u.loadFails e r)
    | .accepted img => .next (u.loadSucceeds o img)

/-! ### Power-on and RESET_N (R165) -/

/-- The part in reset (R165): enables low, nothing driven, no load, no transaction; what was under way is abandoned.
`cause` is what the end of the reset will give. -/
def State.enterReset (s : State) (cause : RestartCause) : State :=
  ({ s with
    startup := { s.startup with load := .idle, restartPending := false, config := none, inReset := some cause }
    rails := ⟨Rail.cleared, Rail.cleared, Rail.cleared, Rail.cleared⟩
    monitor := { s.monitor with
      rails := Four.of (fun r => { s.monitor.rails.get r with outside := 0, deglitch := none }) }
    peers := []
    line := LineAccess.cleared
    receiver := { s.receiver with reception := .off }
    port := { s.port with transaction := .idle, response := [] } }).workOutDemand.rejudge

/-- The reset ends (R165): every block takes its power-on values (Table 49) and a load begins at once. The levels of
the pins, the time and the queue of commands are not the reset's. Sampling begins 200 µs later (assumption 6) and the
pin filters run from now (R74). -/
def State.endReset (s : State) (cause : RestartCause) (straps : BitVec 5) : State :=
  ({ State.reset with
      pending := s.pending
      now := s.now
      startup := { State.reset.startup with cause := cause }
      monitor := { State.reset.monitor with nextSample := s.now + Config.samplePeriod }
      zones := { State.reset.zones with
        dem0 := { level := s.zones.dem0.level, changedAt := s.now, taken := false }
        dem1 := { level := s.zones.dem1.level, changedAt := s.now, taken := false } }
      port := { State.reset.port with selectLow := s.port.selectLow } }).beginLoad straps

/-- POWER_ON (R165): the supply rises and the power-on reset is held until it is in range; with RESET_N still low the
part stays in reset, and the release of RESET_N will give cause POWER_ON. -/
def execPowerOn (o : Occasion) (straps : BitVec 5) (s : State) : Host.Outcome State Fault Refusal :=
  let s := s.after o
  if s.startup.resetN then .next (s.endReset .powerOn straps) else .next (s.enterReset .powerOn)

/-- RESET_N_LOW (R165): the part enters reset, abandoning whatever was under way. -/
def execResetNLow (o : Occasion) (s : State) : Host.Outcome State Fault Refusal :=
  let s := s.after o
  if s.startup.resetN then
    let t := s.enterReset .resetPin
    .next { t with startup := { t.startup with resetN := false } }
  else .next s

/-- RESET_N_HIGH (R165): the reset ends; the cause is RESET_PIN, or POWER_ON when the reset that ends is the power-on
reset. -/
def execResetNHigh (o : Occasion) (straps : BitVec 5) (s : State) : Host.Outcome State Fault Refusal :=
  let s := s.after o
  if s.startup.resetN then .next s else .next (s.endReset (s.startup.inReset.getD .resetPin) straps)

/-! ### Reinitialisation of a warm restart (R176, R177) -/

/-- The reinitialisation takes place: the restart-pending flag is set, no own rail is in FALLING, LEAVING is not DUE
(R176), and the load it ends with has not begun yet. -/
def State.reinitialises (s : State) : Bool :=
  s.startup.restartPending && RailIx.all.all (fun r => decide ((s.rails.get r).state ≠ .falling))
    && decide (s.line.leaving ≠ .due) && decide (s.startup.load = .idle)

/-- The warm restart values of every block (R177), before the load. -/
def State.warmValues (s : State) : State :=
  { s with
    startup := { s.startup with cause := .command }
    rails := Four.of (fun r =>
      { Rail.cleared with
        fallCause := (s.rails.get r).fallCause, faultKind := (s.rails.get r).faultKind, since := s.now })
    monitor := { s.monitor with
      rails := Four.of (fun r => { s.monitor.rails.get r with outside := 0, deglitch := none }) }
    zones := { s.zones with
      entries := ⟨Zone.cleared, Zone.cleared, Zone.cleared, Zone.cleared, Zone.cleared, Zone.cleared, Zone.cleared,
        Zone.cleared⟩
      lastPart := .z7 }
    line := LineAccess.cleared
    receiver := { s.receiver with reception := .off, consecutive := 0, muteCause := .none }
    port := { s.port with flags := 0, lastResult := .ok, portDemand := 0 } }

/-- REINITIALISATION (R177): every block is set to its warm restart values, the queue sets RECORDS_WAITING when it holds
a record (R163), and a load begins with the restart-pending flag still set. -/
def execReinitialisation (o : Occasion) (straps : BitVec 5) (s : State) : Host.Outcome State Fault Refusal :=
  let s := s.after o
  if s.reinitialises then
    .next ((s.warmValues.setFlagIf (!s.records.records.isEmpty) .recordsWaiting).beginLoad straps)
  else .next s

/-! ### Demand pins (R74) -/

/-- The record of a demand pin. -/
def ZoneTable.pin (t : ZoneTable) : DemPin → Pin
  | .dem0 => t.dem0
  | .dem1 => t.dem1

/-- The record of a demand pin replaced. -/
def ZoneTable.setPin (t : ZoneTable) (p : DemPin) (x : Pin) : ZoneTable :=
  match p with
  | .dem0 => { t with dem0 := x }
  | .dem1 => { t with dem1 := x }

/-- DEMAND_PIN_CHANGE (R74): the pin changes level and its filter counts again from now. -/
def execDemandPinChange (o : Occasion) (pin : DemPin) (s : State) : Host.Outcome State Fault Refusal :=
  let s := s.after o
  let p := s.zones.pin pin
  .next { s with zones := s.zones.setPin pin ⟨!p.level, s.now, p.taken⟩ }

/-- DEMAND_PIN_TAKEN (R74): the pin has held a level other than the taken one for 1 ms; the taken level changes, own
demand is worked out again (R75) and the shelf demand after it (R76). In reset the filters do not run (R165). -/
def execDemandPinTaken (o : Occasion) (pin : DemPin) (s : State) : Host.Outcome State Fault Refusal :=
  let s := s.after o
  let p := s.zones.pin pin
  if p.level = p.taken ∨ s.startup.inReset.isSome = true then .next s
  else
    let s := s.notBefore (p.changedAt + Config.pinFilter)
    .next (({ s with zones := s.zones.setPin pin { p with taken := p.level } }).workOutDemand.judge o .demand)

end Sys2Proof.Machine
end

