-- ==== Sys2Proof/Machine/Port.lean ====
section
/-! DEFINITION. Port.lean: the board port (Chapter 10) and its payloads (R200): transactions, the order of refusals, the
six reads, and the commands that act. -/

namespace Sys2Proof.Machine
open Sys2Proof

/-! ### Transactions (R180 to R182) -/

/-- TRANSACTION_BEGIN (R180): BP_CS falls and the port takes a command byte. In reset the port takes no transaction
(R165), and a BP_CS that is low already does not fall (R182). -/
def execTransactionBegin (o : Occasion) (s : State) : Host.Outcome State Fault Refusal :=
  let s := s.after o
  if s.port.selectLow then .next s
  else
    .next { s with port := { s.port with
      selectLow := true, response := []
      transaction := if s.startup.inReset.isSome then .idle else .command } }

/-- The transaction state once the bits `mosi` have been taken since BP_CS fell (R180): COMMAND until the command byte is
whole, ARGUMENTS until a command that has arguments has them all, RESPONSE from its execution on. Between two commands
of the queue State holds COMMAND for both of the first two (assumption 9). -/
def State.transactionAfter (s : State) (mosi : List Bool) : Transaction :=
  match s.port.transaction with
  | .command =>
    match bytesOfBits mosi with
    | [] => .command
    | code :: args => if args.length < (argumentBytes code).getD 0 then .arguments else .response
  | .idle => .idle
  | .arguments => .arguments
  | .response => .response

/-- TRANSACTION_END (R182): BP_CS rises; `mosi` are the bits taken since it fell. In COMMAND with at least one bit
taken, or in ARGUMENTS, the command is discarded and the last result becomes TRUNCATED. -/
def execTransactionEnd (o : Occasion) (mosi : List Bool) (s : State) : Host.Outcome State Fault Refusal :=
  let s := s.after o
  let cut := match s.transactionAfter mosi with
    | .command => !mosi.isEmpty
    | .arguments => true
    | .idle => false
    | .response => false
  .next { s with port := { s.port with
    selectLow := false, transaction := .idle, response := []
    lastResult := if cut then .truncated else s.port.lastResult } }

/-- The first `n` bytes shifted out on BP_MISO (R180): from the execution on the result byte, the payload, then 00h for
as long as the clock runs; before it 00h. While BP_CS is high BP_MISO is not driven. In a BP_CS low without a
transaction (in reset, R165, or after a reset that began with BP_CS low, R182) the manual does not say whether BP_MISO is
driven; the model has 00h (assumption 30). -/
def State.misoBytes (s : State) (n : Nat) : Option (List Byte) :=
  if s.port.selectLow then
    match s.port.transaction with
    | .response => some ((s.port.response ++ List.replicate n 0).take n)
    | .idle | .command | .arguments => some (List.replicate n 0)
  else none

/-- The level of BP_MISO after `falls` falling edges of BP_SCK since the execution, or since BP_CS fell before it (R180):
BP_MISO changes on falling edges, most significant bit first, and the first of them after the execution brings the first
bit of the result byte. None while it is not driven. -/
def State.misoLevel (s : State) (falls : Nat) : Option Bool :=
  (s.misoBytes (falls / 8 + 1)).map (fun bs =>
    match falls with
    | 0 => false
    | k + 1 => (serialBits bs).getD k false)

/-- A command has executed: its result is the last result, and the response is ready (R180, R183). -/
def State.answer (s : State) (r : Result) (payload : List Byte) : State :=
  { s with port := { s.port with transaction := .response, response := r.code :: payload, lastResult := r } }

/-- What refuses a command that names one, in the order of R183: BUSY, STATE, RANGE. -/
def refusal (s : State) (changes : Bool) (phases : LinePhase → Bool) (inRange : Bool) : Option Result :=
  if s.startup.restartPending && changes then some .busy
  else if !phases s.line.phase then some .state
  else if !inRange then some .range
  else none

/-- A command at its execution (R181, R183, R184): outside a transaction that is taking it nothing happens
(assumption 10); a refusal changes nothing but the last result; otherwise `act` gives the answer. -/
def portCommand (o : Occasion) (changes : Bool) (phases : LinePhase → Bool) (inRange : State → Bool)
    (act : State → State) (s : State) : Host.Outcome State Fault Refusal :=
  let s := s.after o
  if s.port.transaction = .command then
    match refusal s changes phases (inRange s) with
    | some r => .next (s.answer r [])
    | none => .next (act s)
  else .next s

/-- Every line phase allows the command. -/
def anyPhase (_ : LinePhase) : Bool := true

/-- Every argument is in range. -/
def anyArgument (_ : State) : Bool := true

/-- UNKNOWN (R181): a command byte that names no command executes at once with result UNKNOWN. -/
def execUnknown (o : Occasion) (_code : Byte) (s : State) : Host.Outcome State Fault Refusal :=
  portCommand o false anyPhase anyArgument (fun s => s.answer .unknown []) s

/-! ### Reads (R185 to R187, Table 66) -/

/-- The two bytes of a 16-bit field, high byte first. -/
def twoBytes (w : Half) : List Byte := [highByte w, lowByte w]

/-- The READ_STATION payload (R185). -/
def State.stationPayload (s : State) : List Byte :=
  [toByte s.line.phase.code, boolByte s.startup.restartPending, toByte s.own, toByte s.shelfSize,
   toByte s.startup.error.code, toByte s.startup.errorRail.toNat, toByte s.startup.cause.code, s.zones.ownDemand,
   s.port.portDemand] ++ twoBytes s.line.cycle ++ twoBytes (s.port.flags.setWidth 16)
  ++ twoBytes (s.port.mask.setWidth 16) ++ [s.port.lastResult.code]

/-- READ_STATION (R185): the last result it shows is that of the previous transaction. -/
def execReadStation (o : Occasion) (s : State) : Host.Outcome State Fault Refusal :=
  portCommand o false anyPhase anyArgument (fun s => s.answer .ok s.stationPayload) s

/-- The READ_LINE payload (R185, R152). -/
def State.linePayload (s : State) : List Byte :=
  [toByte s.receiver.lastError.code, toByte s.receiver.receiveErrors, toByte s.receiver.collisions,
   toByte s.receiver.consecutive, toByte s.receiver.muteCause.code, toByte s.receiver.outOfSlot]

/-- READ_LINE (R185). -/
def execReadLine (o : Occasion) (s : State) : Host.Outcome State Fault Refusal :=
  portCommand o false anyPhase anyArgument (fun s => s.answer .ok s.linePayload) s

/-- The READ_PEER payload of an entry (R114): eight hold bytes, 00h beyond the count. -/
def Peer.payload (p : Peer) : List Byte :=
  [toByte p.presence.code, toByte p.misses] ++ twoBytes (railsField p.rails) ++ [p.demand, toByte p.holds.length]
  ++ (List.range 8).map (byteAt p.holds) ++ twoBytes p.lastCycle

/-- READ_PEER n (R186, R114): RANGE when the table holds no entry for `n`. -/
def execReadPeer (o : Occasion) (n : Byte) (s : State) : Host.Outcome State Fault Refusal :=
  portCommand o false anyPhase (fun s => decide (n.toNat < s.shelfSize) && decide (n.toNat < s.peers.length))
    (fun s => s.answer .ok ((s.peers.getD n.toNat Peer.cleared).payload)) s

/-- The READ_ZONES payload (R186). -/
def State.zonesPayload (s : State) : List Byte :=
  ZoneIx.all.map (fun z => (s.zones.entries.get z).generation)
  ++ [s.tripMask, zoneMask s.demanded, zoneMask (fun z => (s.zones.entries.get z).record.isSome)]

/-- READ_ZONES (R186). -/
def execReadZones (o : Occasion) (s : State) : Host.Outcome State Fault Refusal :=
  portCommand o false anyPhase anyArgument (fun s => s.answer .ok s.zonesPayload) s

/-- The READ_TRIP payload of a record (R186, Table 66). -/
def TripRecord.payload (t : TripRecord) : List Byte :=
  [toByte t.station, toByte (16 * t.kind.code + t.rail.toNat)] ++ twoBytes t.cycle ++ [toByte t.slot]
  ++ twoBytes (BitVec.ofNat 16 t.offset)

/-- READ_TRIP z (R186): the zone's record, or EMPTY with seven bytes 00h; RANGE when z is more than 7. -/
def execReadTrip (o : Occasion) (z : Byte) (s : State) : Host.Outcome State Fault Refusal :=
  portCommand o false anyPhase (fun _ => decide (z.toNat ≤ 7))
    (fun s =>
      match (s.zones.entries.get (ZoneIx.ofIndex z.toNat)).record with
      | some t => s.answer .ok t.payload
      | none => s.answer .empty (List.replicate 7 0)) s

/-- The READ_RAIL payload of rail `r` (R187). -/
def State.railPayload (s : State) (r : RailIx) : List Byte :=
  let x := s.rails.get r
  let m := s.monitor.rails.get r
  [toByte (s.shownState r).code, toByte x.faultKind.code, toByte x.fallCause.code]
  ++ twoBytes (m.lastSample.setWidth 16) ++ [boolByte m.pg, toByte m.outside, boolByte (s.held r)]

/-- READ_RAIL r (R187): answered for every rail in every line phase; RANGE when r is more than 3. -/
def execReadRail (o : Occasion) (r : Byte) (s : State) : Host.Outcome State Fault Refusal :=
  portCommand o false anyPhase (fun _ => decide (r.toNat ≤ 3))
    (fun s => s.answer .ok (s.railPayload (RailIx.ofIndex r.toNat))) s

/-! ### Commands that act (R188 to R194) -/

/-- The TAKE_RECORD payload (Table 67): the record, the records left, the discarded count. -/
def TimingRecord.payload (x : TimingRecord) (left discarded : Nat) : List Byte :=
  [toByte x.rail.toNat, toByte x.kind.code, toByte x.detail.code] ++ twoBytes (BitVec.ofNat 16 x.width)
  ++ [boolByte x.continued] ++ twoBytes x.cycle ++ [toByte left, toByte discarded]

/-- TAKE_RECORD (R162, R188): the oldest record is removed and returned; EMPTY when there is none. -/
def execTakeRecord (o : Occasion) (s : State) : Host.Outcome State Fault Refusal :=
  portCommand o true anyPhase anyArgument
    (fun s =>
      match s.records.records with
      | x :: rest =>
        ({ s with records := { s.records with records := rest } }).answer .ok
          (x.payload rest.length s.records.discarded)
      | [] => s.answer .empty (List.replicate 9 0 ++ [toByte s.records.discarded])) s

/-- The phases in which a station has a configuration: LISTEN, ACTIVE and MUTED. -/
def configuredPhase : LinePhase → Bool
  | .listen | .active | .muted => true
  | .start | .unconfigured => false

/-- SET_DEMAND mask (R189): the port demand mask is replaced; own demand and the shelf demand are worked out again. -/
def execSetDemand (o : Occasion) (mask : Byte) (s : State) : Host.Outcome State Fault Refusal :=
  portCommand o true configuredPhase anyArgument
    (fun s => ((({ s with port := { s.port with portDemand := mask } }).workOutDemand).judge o .demand).answer .ok []) s

/-- CLEAR_ZONE z (R93, R94, R190). -/
def execClearZone (o : Occasion) (z : Byte) (s : State) : Host.Outcome State Fault Refusal :=
  portCommand o true configuredPhase (fun _ => decide (z.toNat ≤ 7))
    (fun s => (s.clear o (ZoneIx.ofIndex z.toNat)).answer .ok []) s

/-- ACK_FLAGS mask (R193): the flags named are cleared; bits 15 to 9 of the argument are ignored. -/
def execAckFlags (o : Occasion) (mask : Half) (s : State) : Host.Outcome State Fault Refusal :=
  portCommand o true anyPhase anyArgument
    (fun s => ({ s with port := { s.port with flags := s.port.flags &&& ~~~(mask.setWidth 9) } }).answer .ok []) s

/-- SET_ALERT_MASK mask (R194): the alert mask becomes bits 8 to 0 of the argument. -/
def execSetAlertMask (o : Occasion) (mask : Half) (s : State) : Host.Outcome State Fault Refusal :=
  portCommand o true anyPhase anyArgument
    (fun s => ({ s with port := { s.port with mask := mask.setWidth 9 } }).answer .ok []) s

/-- RESUME_LINE (R138): a MUTED station goes to LISTEN, with consecutive collisions 0 and mute cause NONE. -/
def execResumeLine (o : Occasion) (s : State) : Host.Outcome State Fault Refusal :=
  portCommand o true (fun p => decide (p = .muted)) anyArgument
    (fun s =>
      (({ s.enterListen with
          receiver := { s.receiver with consecutive := 0, muteCause := .none } }).settle o).answer .ok []) s

/-- RESTART is accepted (R174): restart-pending is set, the rails are moved by R26, LEAVING becomes DUE when the station
is ACTIVE, and a load under way is abandoned. -/
def State.acceptRestart (s : State) (o : Occasion) : State :=
  (({ s with
      startup := { s.startup with restartPending := true, load := .idle }
      line := { s.line with
        leaving := if s.line.phase = LinePhase.active then Leaving.due else s.line.leaving } }).takeDownAll .restart
    (fun _ => true)).settle o

/-- RESTART (R174, R191). -/
def execRestart (o : Occasion) (s : State) : Host.Outcome State Fault Refusal :=
  portCommand o true anyPhase anyArgument (fun s => (s.acceptRestart o).answer .ok []) s

/-- RELOAD (R173, R191): in UNCONFIGURED a new load begins. -/
def execReload (o : Occasion) (straps : BitVec 5) (s : State) : Host.Outcome State Fault Refusal :=
  portCommand o true (fun p => decide (p = .unconfigured)) anyArgument
    (fun s => (s.beginLoad straps).answer .ok []) s

end Sys2Proof.Machine
end

