-- ==== Sys2Proof/Machine/Dispatch.lean ====
section
/-! DEFINITION. Dispatch.lean: the meaning of each command, one arm a constructor. -/

namespace Sys2Proof.Machine
open Sys2Proof

def exec (i : Instr) (s : State) : Host.Outcome State Fault Refusal :=
  match i with
  | .powerOn o straps => Sys2Proof.Machine.execPowerOn o straps s
  | .resetNLow o => Sys2Proof.Machine.execResetNLow o s
  | .resetNHigh o straps => Sys2Proof.Machine.execResetNHigh o straps s
  | .configurationLoadEnd o image => Sys2Proof.Machine.execConfigurationLoadEnd o image s
  | .transactionBegin o => Sys2Proof.Machine.execTransactionBegin o s
  | .transactionEnd o mosi => Sys2Proof.Machine.execTransactionEnd o mosi s
  | .unknown o code => Sys2Proof.Machine.execUnknown o code s
  | .readStation o => Sys2Proof.Machine.execReadStation o s
  | .readLine o => Sys2Proof.Machine.execReadLine o s
  | .readPeer o n => Sys2Proof.Machine.execReadPeer o n s
  | .readZones o => Sys2Proof.Machine.execReadZones o s
  | .readTrip o z => Sys2Proof.Machine.execReadTrip o z s
  | .readRail o r => Sys2Proof.Machine.execReadRail o r s
  | .takeRecord o => Sys2Proof.Machine.execTakeRecord o s
  | .setDemand o mask => Sys2Proof.Machine.execSetDemand o mask s
  | .clearZone o z => Sys2Proof.Machine.execClearZone o z s
  | .ackFlags o mask => Sys2Proof.Machine.execAckFlags o mask s
  | .setAlertMask o mask => Sys2Proof.Machine.execSetAlertMask o mask s
  | .resumeLine o => Sys2Proof.Machine.execResumeLine o s
  | .restart o => Sys2Proof.Machine.execRestart o s
  | .reload o straps => Sys2Proof.Machine.execReload o straps s
  | .reinitialisation o straps => Sys2Proof.Machine.execReinitialisation o straps s
  | .demandPinChange o pin => Sys2Proof.Machine.execDemandPinChange o pin s
  | .demandPinTaken o pin => Sys2Proof.Machine.execDemandPinTaken o pin s
  | .sample o counts pg => Sys2Proof.Machine.execSample o counts pg s
  | .settleTimerExpiry o r => Sys2Proof.Machine.execSettleTimerExpiry o r s
  | .rampTimeout o r => Sys2Proof.Machine.execRampTimeout o r s
  | .drainForced o r => Sys2Proof.Machine.execDrainForced o r s
  | .drainContinued o r => Sys2Proof.Machine.execDrainContinued o r s
  | .dischargeTimeout o r => Sys2Proof.Machine.execDischargeTimeout o r s
  | .pgLost o r => Sys2Proof.Machine.execPgLost o r s
  | .slotBoundary o => Sys2Proof.Machine.execSlotBoundary o s
  | .frameBuild o => Sys2Proof.Machine.execFrameBuild o s
  | .collision o => Sys2Proof.Machine.execCollision o s
  | .ownFrameEnd o => Sys2Proof.Machine.execOwnFrameEnd o s
  | .coldStart o => Sys2Proof.Machine.execColdStart o s
  | .frameStart o => Sys2Proof.Machine.execFrameStart o s
  | .frameReceived o bytes => Sys2Proof.Machine.execFrameReceived o bytes s
  | .receptionGap o bytes => Sys2Proof.Machine.execReceptionGap o bytes s

end Sys2Proof.Machine
end

