-- ==== Sys2Proof/Safety.lean ====
section
/-! DEFINITION. Safety.lean: what a sound state of the part is, in the terms the manual uses. Each predicate is one
group of the manual's "always" sentences; `State.sound` gathers those that need one another. -/

namespace Sys2Proof.Machine
open Sys2Proof

/-- No rail has a move left: what Table 10 and the rules R7 to R11, R16, R17, R24, R40 and R41 make each state wait for
has not happened. A rail not fitted waits for nothing (R2). -/
def State.atRest (s : State) : Prop :=
  ∀ (r : RailIx) (c : RailConfig), s.fittedConfig r = some c →
    match (s.rails.get r).state with
    | .off => s.gateOpen c = false
    | .waiting => s.gateOpen c = true ∧ s.mayStart c r = false
    | .settling => s.gateOpen c = true ∧ s.allGood c r = true
    | .ramping => c.policy = .follow → s.allUp c r = true
    | .good => (c.policy = .follow → s.allUp c r = true) ∧ s.demanded c.zone = true
    | .draining =>
      (c.policy = .follow → s.allUp c r = true) ∧ s.held r = true
        ∧ (s.demanded c.zone = true → s.zoneNormal c.zone = false)
    | .falling => True
    | .fault => True

/-- `t` is `s` after one move of one rail by Table 10 on the occasion `o`. -/
def State.MovesOnce (o : Occasion) (s t : State) : Prop := ∃ r, s.react o r = some t

/-- `t` is `s` after the consequent events (R32): single moves of Table 10, one after another, until no rail has a move
left. -/
def State.SettlesTo (o : Occasion) (s t : State) : Prop := Relation.ReflTransGen (State.MovesOnce o) s t ∧ t.atRest

/-- Each timer of a rail runs in its own state only (R1); the outside count is 0 in the states that count nothing (R56,
R65, R68), and the deglitch timer runs in GOOD and DRAINING only (R60). -/
def State.timersFit (s : State) : Prop :=
  ∀ r : RailIx,
    ((s.rails.get r).settle.isSome = true ↔ (s.rails.get r).state = .settling) ∧
    ((s.rails.get r).ramp.isSome = true ↔ (s.rails.get r).state = .ramping) ∧
    ((s.rails.get r).drain.isSome = true → (s.rails.get r).state = .draining) ∧
    ((s.rails.get r).discharge.isSome = true ↔ (s.rails.get r).state = .falling) ∧
    ((s.monitor.rails.get r).deglitch.isSome = true →
      (s.rails.get r).state = .good ∨ (s.rails.get r).state = .draining) ∧
    ((s.rails.get r).state = .ramping ∨ (s.rails.get r).state = .falling ∨ (s.rails.get r).state = .fault →
      (s.monitor.rails.get r).outside = 0)

/-- Each running timer of a fitted rail started when the rail entered its state and has the length its configuration
gives (R1, R9, R12, R18, R40); a deglitch timer started at a sample instant and has the rail's PG deglitch (R60). -/
def State.timersAgree (s : State) : Prop :=
  ∀ (r : RailIx) (c : RailConfig), s.fittedConfig r = some c →
    let x := s.rails.get r
    (∀ t, x.settle = some t → t = { start := x.since, length := c.settleDelay }) ∧
    (∀ t, x.ramp = some t → t = { start := x.since, length := c.rampTimeout }) ∧
    (∀ t, x.drain = some t → t = { start := x.since, length := c.drainTimeout }) ∧
    (∀ t, x.discharge = some t → t = { start := x.since, length := c.dischargeTimeout }) ∧
    (∀ t, (s.monitor.rails.get r).deglitch = some t →
      t.length = c.pgDeglitch ∧ t.start < s.monitor.nextSample ∧ (s.monitor.nextSample - t.start) % 3200 = 0)

/-- The width of a record of a fitted rail is within the bound R157 gives its kind. -/
def TimingRecord.widthFits (x : TimingRecord) (c : RailConfig) : Prop :=
  match x.kind with
  | .ramp => x.width ≤ c.rampTimeout
  | .discharge => x.width ≤ c.dischargeTimeout
  | .drainForced => x.width = c.drainTimeout
  | .dropout => x.width % 2 = 0 ∧ x.width ≤ c.pgDeglitch
  | .drain => x.width ≤ 65535
  | .fault => x.width ≤ 65535

/-- The timing record queue holds at most 16 records (R159), the discarded count saturates (R160), every width is at
most 65,535, and only a DRAIN record of that width is continued (R155, R158). A DRAIN_FORCED record has the drain
timeout as its width, which a loaded image bounds. -/
def State.queueSound (s : State) : Prop :=
  s.records.records.length ≤ 16 ∧ s.records.discarded ≤ 255 ∧
  (∀ x ∈ s.records.records,
    x.width ≤ 65535 ∧ (x.continued = true → x.kind = .drain ∧ x.width = 65535)) ∧
  (∀ c : Image, s.startup.config = some c → ∀ r : RailIx, (c.rails.get r).drainTimeout ≤ 65535)

/-- A trip record is present only while its zone is TRIPPED (R72). -/
def State.zonesSound (s : State) : Prop :=
  ∀ z : ZoneIx, (s.zones.entries.get z).record.isSome = true → (s.zones.entries.get z).condition = .tripped

/-- What is kept of the shelf view is what the peer table and own demand give now: the shelf demand of every zone (R76),
the remote part of each rail's prerequisite conditions (R5), and the peers' part of held status (R37); own demand is
what pins and port demand mask give (R75). A load runs without a configuration (R166). -/
def State.viewFresh (s : State) : Prop :=
  s.zones.ownDemand = s.ownDemandNow ∧
  (∀ z : ZoneIx, s.demanded z = s.shelfDemand z) ∧
  (∀ r : RailIx, (s.rails.get r).peerHeld = s.peersHold r) ∧
  (∀ (r : RailIx) (c : RailConfig), s.fittedConfig r = some c →
    (s.rails.get r).remoteGood = s.remoteAll c (fun st => decide (st = .good)) ∧
    (s.rails.get r).remoteUp = s.remoteAll c RailState.up) ∧
  (s.startup.load ≠ .idle → s.startup.config = none)

/-- The counts of the line status record keep their ranges (Table 37). -/
def State.countsSound (s : State) : Prop :=
  s.receiver.receiveErrors ≤ 255 ∧ s.receiver.collisions ≤ 255 ∧ s.receiver.outOfSlot ≤ 255 ∧
  s.receiver.consecutive ≤ 3

/-- Each peer entry counts 0 to 3 misses, and a PRESENT one at most 2 (R107). -/
def State.missesSound (s : State) : Prop :=
  ∀ p ∈ s.peers, p.misses ≤ 3 ∧ (p.presence = .present → p.misses ≤ 2)

/-- The loaded image is one that the checks of R168 to R170 let pass: shelf size, signature and own number, at most 8
distinct remote prerequisites, and for each fitted rail the ranges of R169 and of the one-byte fields of Table 64; a
rail's chains of local prerequisites are no part of it. -/
def Image.sound (c : Image) (own : Nat) : Prop :=
  2 ≤ c.shelfSize ∧ c.shelfSize ≤ 32 ∧ own < c.shelfSize ∧ c.signature ≠ 0x0000 ∧ c.signature ≠ 0xFFFF ∧
  (remoteBytes c.rails own (fun _ => true)).length ≤ 8 ∧
  ∀ r : RailIx, (c.rails.get r).fitted = true →
    1 ≤ (c.rails.get r).persistence ∧ (c.rails.get r).persistence ≤ 255 ∧ (c.rails.get r).pgDeglitch ≤ 255 ∧
    1 ≤ (c.rails.get r).rampTimeout ∧ 1 ≤ (c.rails.get r).dischargeTimeout ∧ (c.rails.get r).prerequisites.length ≤ 6 ∧
    1 ≤ (c.rails.get r).magnitude ∧ (c.rails.get r).magnitude ≤ (c.rails.get r).nominal ∧
    (c.rails.get r).nominal + (c.rails.get r).magnitude ≤ 4095 ∧
    (c.rails.get r).dischargeLevel < (c.rails.get r).nominal - (c.rails.get r).magnitude ∧
    ∀ p ∈ (c.rails.get r).prerequisites, p.station < c.shelfSize ∧
      (p.station = own → p.rail ≠ r ∧ (c.rails.get p.rail).fitted = true)

/-- With a configuration the phase is LISTEN, ACTIVE or MUTED, the slot timer runs in one of the N slots, the receiver
is not OFF and the peer table has N entries; with none the phase is START or UNCONFIGURED, the timer is stopped, nothing
is sent, the receiver is OFF and the table is empty (R102, R120, R122, R142, R166, R172). In reset no load runs, no
restart is pending and the port takes no transaction (R165). -/
def State.phaseSound (s : State) : Prop :=
  (match s.startup.config with
   | some c =>
     c.sound s.own ∧ (s.line.phase = .listen ∨ s.line.phase = .active ∨ s.line.phase = .muted) ∧
     (∃ t, s.line.slotTimer = some t ∧ t.slot < c.shelfSize) ∧ s.receiver.reception ≠ .off ∧
     s.peers.length = c.shelfSize ∧ s.startup.load = .idle ∧ s.startup.inReset = none
   | none =>
     (s.line.phase = .start ∨ s.line.phase = .unconfigured) ∧ s.line.slotTimer = none ∧ s.line.send = .idle ∧
     s.line.tx = none ∧ s.receiver.reception = .off ∧ s.peers = []) ∧
  (s.startup.load ≠ .idle → s.line.phase = .start) ∧
  (s.startup.inReset ≠ none →
    s.line.phase = .start ∧ s.startup.load = .idle ∧ s.startup.restartPending = false
      ∧ s.port.transaction ≠ .command)

/-- A rail not fitted is in OFF (R2). A fitted rail of a TRIPPED zone (R23), and every rail while a restart is pending
(R26), is in OFF, FALLING or FAULT; a zone cannot be TRIPPED with a rail WAITING, since its gate is closed. -/
def State.railsDown (s : State) : Prop :=
  ∀ r : RailIx,
    match s.fittedConfig r with
    | none => (s.rails.get r).state = .off
    | some c =>
      s.zoneNormal c.zone = false ∨ s.startup.restartPending = true →
        (s.rails.get r).state = .off ∨ (s.rails.get r).state = .falling ∨ (s.rails.get r).state = .fault

/-- The invariant of the start-up, the line and the rails together. -/
def State.sound (s : State) : Prop := s.phaseSound ∧ s.railsDown

/-- The part as a reset leaves it (R165, Table 49): every block at its power-on values, a load begun at this instant
with the straps read, and the restart cause given. What a reset does not touch comes from `s`: the queue of
commands, the time, the pin levels and the level of BP_CS. -/
def State.afterReset (s : State) (cause : RestartCause) (straps : BitVec 5) : State :=
  { State.reset with
    pending := s.pending
    now := s.now
    startup := { State.reset.startup with station := straps, cause := cause, load := .loading s.now }
    monitor := { State.reset.monitor with nextSample := s.now + 3200 }
    zones :=
      { State.reset.zones with
        dem0 := { level := s.zones.dem0.level, changedAt := s.now, taken := false }
        dem1 := { level := s.zones.dem1.level, changedAt := s.now, taken := false } }
    port := { State.reset.port with selectLow := s.port.selectLow } }

/-- What holds while the part is in reset (R165): every enable is low, the line is not driven, no memory or port
transaction runs, ALERT_N is released, and no configuration, load or restart is left. -/
def State.heldDown (s : State) : Prop :=
  (∀ r, s.enable r = false) ∧ s.drivesDominant = false ∧ s.memorySelected = false ∧ s.alertLow = false ∧
  s.port.transaction = .idle ∧ s.startup.config = none ∧ s.startup.load = .idle ∧ s.startup.restartPending = false

/-- The instant at which a load begun at `began` ends when its end is commanded after `wait`: 444 µs to 500 µs after it
began (R166). -/
def State.loadEnd (s : State) (wait began : Nat) : Nat :=
  max s.now (began + min (16 * 500) (max (16 * 444) (s.now + wait - began)))

/-- The record of a rail taken down by a trip or a restart at instant `now` (R23, R26): up it is FALLING with the cause and
its discharge timer started, starting it is OFF, otherwise it is as it was. -/
def Rail.takenDown (x : Rail) (c : RailConfig) (cause : FallCause) (now : Nat) : Rail :=
  match x.state with
  | .ramping | .good | .draining =>
    { x with
      state := .falling
      settle := none
      ramp := none
      drain := none
      discharge := some { start := now, length := c.dischargeTimeout }
      fallCause := cause
      since := now }
  | .waiting | .settling =>
    { x with state := .off, settle := none, ramp := none, drain := none, discharge := none, since := now }
  | .off | .falling | .fault => x

/-- The FAULT record of rail `r` entering FAULT now (R29, R69, Table 42). -/
def State.faultRecord (s : State) (r : RailIx) (k : FaultKind) : TimingRecord :=
  { rail := r, kind := .fault, detail := .kind k, width := min 65535 ((s.now - (s.rails.get r).since) / 1600),
    continued := false, cycle := s.line.cycle }

/-- The zone of fitted rail `r` as the rail's fault with kind `k` trips it (R82, R83): TRIPPED at its generation, with the
rail's record when it was NORMAL, and with the earlier of its record and the rail's when it was TRIPPED. -/
def State.trippedBy (s : State) (z : ZoneIx) (r : RailIx) (k : FaultKind) : Zone :=
  let own : TripRecord :=
    { station := s.own, rail := r, kind := k, cycle := s.line.cycle, slot := s.shelfSlot, offset := s.shelfOffset }
  { s.zones.entries.get z with
    condition := .tripped
    record := some (
      match (s.zones.entries.get z).condition with
      | .normal => own
      | .tripped => mergeRecord (s.zones.entries.get z).record own) }

/-- `s` with fitted rail `r` in FAULT with kind `k`, before the moves that follow (R29, R82, R83): the rail's timers idle
and the kind stored, the FAULT record handed to the queue, RAIL_FAULT set, and, when the trip flag is set, the zone
TRIPPED, with ZONE_TRIPPED where it was NORMAL, and the other rails of the zone taken down. -/
def State.faultEntered (s : State) (c : RailConfig) (r : RailIx) (k : FaultKind) : State :=
  let moved (q : RailIx) : Rail :=
    if q = r then
      { s.rails.get r with
        state := .fault, settle := none, ramp := none, drain := none, discharge := none, faultKind := k
        since := s.now }
    else
      match s.fittedConfig q with
      | some d => if c.trip = true ∧ d.zone = c.zone then (s.rails.get q).takenDown d .trip s.now else s.rails.get q
      | none => s.rails.get q
  { s with
    rails := Four.of moved
    monitor := { s.monitor with rails := Four.of (fun q =>
      if q = r ∨ (moved q).state ≠ (s.rails.get q).state then
        { s.monitor.rails.get q with outside := 0, deglitch := none }
      else s.monitor.rails.get q) }
    records := (s.queueRecord (s.faultRecord r k)).records
    zones := { s.zones with entries :=
      if c.trip then s.zones.entries.set c.zone (s.trippedBy c.zone r k) else s.zones.entries }
    port := { s.port with flags := (s.queueRecord (s.faultRecord r k)).port.flags ||| 0x001 |||
      (if c.trip = true ∧ (s.zones.entries.get c.zone).condition = .normal then 0x002 else 0) } }

/-- What the entry of fitted rail `r` into FAULT with kind `k` on the occasion `o` makes of `s` (R29, R70, R82, R83):
`faultEntered` and then the moves that follow. The other fields say what of it is still so when they have been made. -/
structure State.FaultTaken (o : Occasion) (s : State) (c : RailConfig) (r : RailIx) (k : FaultKind) (t : State) :
    Prop where
  settles : State.SettlesTo o (s.faultEntered c r k) t
  rail : t.rails.get r = (s.faultEntered c r k).rails.get r
  monitor : t.monitor.rails.get r = (s.faultEntered c r k).monitor.rails.get r
  alert : t.flagSet .railFault = true
  record : ∃ l, t.records.records = (s.queueRecord (s.faultRecord r k)).records.records ++ l
  zones : t.zones = (s.faultEntered c r k).zones
  tripped : c.trip = true → (s.zones.entries.get c.zone).condition = .normal → t.flagSet .zoneTripped = true
  down : c.trip = true → ∀ (q : RailIx) (d : RailConfig), q ≠ r → s.fittedConfig q = some d → d.zone = c.zone →
    t.rails.get q = (s.rails.get q).takenDown d .trip s.now
  frame : t.pending = s.pending ∧ t.now = s.now ∧ t.startup = s.startup ∧ t.peers = s.peers ∧ t.line = s.line ∧
    t.receiver = s.receiver ∧ t.monitor.nextSample = s.monitor.nextSample ∧
    ∃ w, t.port = { s.port with flags := s.port.flags ||| w }
  still : ∀ q, q ≠ r → s.fittedConfig q = none ∨ (s.rails.get q).state = .falling ∨ (s.rails.get q).state = .fault →
    t.rails.get q = s.rails.get q ∧ t.monitor.rails.get q = s.monitor.rails.get q

end Sys2Proof.Machine
end

