-- ==== Sys2Proof/Certificates/Slice0/Obligations.lean ====
section
/-! DEFINITION. Obligations.lean: the statements about the part, one definition each. `SettlesTo` (single moves of
Table 10 until no rail has one left; the moves themselves are stated by RailsMoveAsTabled) and `FaultTaken` are defined
in Safety.lean. A time is in periods of the 16 MHz reference clock: 1,600 to a tick of 100 µs. -/

open Sys2Proof Sys2Proof.Machine

/-! ### Steps and every command -/

/-- A step takes the command at the front of the queue and runs it on the state with the queue's rest. On an empty queue
the block idles: the model's choice, assumption 3. -/
def Obligations.StepRunsFrontCommand : Prop :=
  (∀ (s : State) (c : Instr) (rest : List Instr), s.pending = c :: rest → step s = exec c { s with pending := rest }) ∧
  (∀ s : State, s.pending = [] → step s = .next s)

/-- Every command answers a next state in every state; none changes the queue, and time never goes back.
The model's own choice in it: assumption 1. -/
def Obligations.EveryCommandAnswersNext : Prop :=
  ∀ (c : Instr) (s : State), ∃ t : State, exec c s = .next t ∧ t.pending = s.pending ∧ s.now ≤ t.now

/-! ### Power, reset and the configuration load -/

/-- What the manual gives for the end of a power-on reset, block by block (Table 49). The state has every invariant below:
atRest, timersFit, timersAgree, queueSound, zonesSound, viewFresh, sound, countsSound and missesSound. -/
def Obligations.ResetHoldsPowerOnValues : Prop :=
  (let s := State.reset
   s.startup.config = none ∧ s.startup.error = .none ∧ s.startup.errorRail = .r0 ∧ s.startup.cause = .powerOn ∧
   s.startup.restartPending = false ∧ s.startup.load = .loading s.now ∧
   (∀ r, (s.rails.get r).state = .off ∧ (s.rails.get r).settle = none ∧ (s.rails.get r).ramp = none ∧
     (s.rails.get r).drain = none ∧ (s.rails.get r).discharge = none ∧ (s.rails.get r).fallCause = .none ∧
     (s.rails.get r).faultKind = .none ∧ s.held r = false ∧ s.enable r = false) ∧
   (∀ r, s.monitor.rails.get r = { lastSample := 0, pg := false, outside := 0, deglitch := none }) ∧
   (∀ z, s.zones.entries.get z = { generation := 0, condition := .normal, record := none, demanded := false }) ∧
   s.zones.ownDemand = 0 ∧ s.zones.lastPart = .z7 ∧ s.zones.dem0.taken = false ∧ s.zones.dem1.taken = false ∧
   s.peers = [] ∧
   s.line = { phase := .start, slotTimer := none, timingHeld := false, syncSinceLoad := false, cycle := 0,
              listenCount := 0, silence := none, coldMark := false, leaving := .none, send := .idle, tx := none } ∧
   s.receiver = { reception := .off, lastError := .none, receiveErrors := 0, collisions := 0, consecutive := 0,
                  muteCause := .none, outOfSlot := 0 } ∧
   s.records = { records := [], discarded := 0 } ∧
   s.port.transaction = .idle ∧ s.port.lastResult = .ok ∧ s.port.portDemand = 0 ∧ s.port.flags = 0 ∧
   s.port.mask = 0x1A3 ∧ s.alertLow = false) ∧
  (State.reset.atRest ∧ State.reset.timersFit ∧ State.reset.queueSound ∧ State.reset.zonesSound ∧
   State.reset.viewFresh ∧ State.reset.sound ∧ State.reset.countsSound ∧ State.reset.missesSound ∧
   State.reset.timersAgree)

/-- The end of a reset, by POWER_ON with RESET_N high or by the release of RESET_N, sets every block to its power-on
values and begins a load; only the pin levels, the time and the queue of commands are what they were.
The model's own choices in it: assumptions 6 and 23. -/
def Obligations.ResetEndSetsPowerOnValues : Prop :=
  ∀ (o : Occasion) (straps : BitVec 5) (s : State),
    (s.startup.resetN = true → exec (.powerOn o straps) s = .next ((s.after o).afterReset .powerOn straps)) ∧
    (s.startup.resetN = false →
      exec (.resetNHigh o straps) s =
        .next ((s.after o).afterReset (s.startup.inReset.getD .resetPin) straps)) ∧
    (s.startup.resetN = true → exec (.resetNHigh o straps) s = .next (s.after o))

/-- RESET_N going low takes the part into reset, abandoning whatever was under way; a power-on with RESET_N low keeps it
there. In reset every enable is low, the line is not driven, no memory or port transaction runs and ALERT_N is
released.
The model's own choice in it: assumption 8. -/
def Obligations.ResetHoldsPartDown : Prop :=
  ∀ (o : Occasion) (straps : BitVec 5) (s : State),
    (s.startup.resetN = true →
      ∃ t : State, exec (.resetNLow o) s = .next t ∧ t.heldDown ∧ t.startup.inReset = some .resetPin ∧
        t.startup.resetN = false ∧ t.now = s.now + o.wait ∧ t.pending = s.pending) ∧
    (s.startup.resetN = false →
      ∃ t : State, exec (.powerOn o straps) s = .next t ∧ t.heldDown ∧ t.startup.inReset = some .powerOn ∧
        t.startup.resetN = false ∧ t.now = s.now + o.wait ∧ t.pending = s.pending) ∧
    (s.startup.resetN = false → exec (.resetNLow o) s = .next (s.after o))

/-- A load whose image passes every check puts the configuration in force and takes the station to LISTEN.
The model's own choice in it: assumption 12. -/
def Obligations.LoadSucceedsIntoListen : Prop :=
  ∀ (o : Occasion) (bytes : List Byte) (s : State) (began : Nat) (img : Image),
    s.startup.load = .loading began → s.line.phase = .start → judgeImage s.own bytes = .accepted img →
    (∀ r, (s.rails.get r).state = .off) →
    let now := s.loadEnd o.wait began
    ∃ t : State, exec (.configurationLoadEnd o bytes) s = .next t ∧
      t.now = now ∧ t.pending = s.pending ∧ t.records = s.records ∧ t.port = s.port ∧
      t.startup = { s.startup with
        config := some img, error := .none, errorRail := .r0, load := .idle, restartPending := false } ∧
      t.line = { s.line with
        phase := .listen, slotTimer := some { slot := 0, start := now }, timingHeld := false, syncSinceLoad := false,
        listenCount := 0, silence := some now, coldMark := false,
        leaving := if s.line.leaving = Leaving.due then .none else s.line.leaving } ∧
      t.receiver = { s.receiver with reception := .waiting none } ∧
      t.peers = List.replicate img.shelfSize
        { presence := .absent, misses := 0, rails := ⟨.off, .off, .off, .off⟩, demand := 0, holds := [],
          lastCycle := 0, heard := false } ∧
      t.zones.ownDemand =
        (if s.zones.dem0.taken then img.dem0Mask else 0) ||| (if s.zones.dem1.taken then img.dem1Mask else 0)
          ||| s.port.portDemand ∧
      t.zones.lastPart = s.zones.lastPart ∧ t.zones.dem0 = s.zones.dem0 ∧ t.zones.dem1 = s.zones.dem1 ∧
      (∀ z, t.zones.entries.get z =
        { s.zones.entries.get z with demanded := t.zones.ownDemand.getLsbD z.toNat }) ∧
      (∀ r, (t.rails.get r).state = .off ∧ (t.rails.get r).since = now ∧
        (t.rails.get r).fallCause = (s.rails.get r).fallCause ∧
        (t.rails.get r).faultKind = (s.rails.get r).faultKind) ∧
      (∀ r, t.monitor.rails.get r = { s.monitor.rails.get r with outside := 0, deglitch := none }) ∧
      t.monitor.nextSample = s.monitor.nextSample

/-- A load that fails leaves the station UNCONFIGURED with the error of the first failed check and CONFIG_FAULT set, and
changes nothing else. With no load under way nothing ends.
The model's own choice in it: assumption 12. -/
def Obligations.LoadFailsIntoUnconfigured : Prop :=
  ∀ (o : Occasion) (bytes : List Byte) (s : State),
    (∀ (began : Nat) (e : ConfigErrorKind) (r : RailIx),
      s.startup.load = .loading began → judgeImage s.own bytes = .refused e r →
      exec (.configurationLoadEnd o bytes) s = .next { s with
        now := s.loadEnd o.wait began
        startup := { s.startup with
          config := none, error := e, errorRail := r, load := .idle, restartPending := false }
        line := { s.line with phase := .unconfigured }
        port := { s.port with flags := s.port.flags ||| 0x100 } }) ∧
    (s.startup.load = .idle → exec (.configurationLoadEnd o bytes) s = .next (s.after o))

/-- The seven checks are made in their order, the first that fails giving the error: of the rail records the lowest failing
index, then a ring of local prerequisites, then more than 8 distinct remote prerequisites; an image that passes all
seven is accepted. -/
def Obligations.ImageChecksInOrder : Prop :=
  (∀ (own : Nat) (b : List Byte), b.length = 108 →
    let n := (b.getD 3 0).toNat
    let sig : BitVec 16 := b.getD 1 0 ++ b.getD 2 0
    let sound := crc (b.take 106) = (b.getD 106 0 ++ b.getD 107 0 : BitVec 16)
    let lawful := 2 ≤ n ∧ n ≤ 32 ∧ sig ≠ 0 ∧ sig ≠ 0xFFFF
    (b.getD 0 0 ≠ 0x51 → judgeImage own b = .refused .badTag .r0) ∧
    (b.getD 0 0 = 0x51 → ¬ sound → judgeImage own b = .refused .badCheck .r0) ∧
    (b.getD 0 0 = 0x51 → sound → ¬ lawful → judgeImage own b = .refused .badShelf .r0) ∧
    (b.getD 0 0 = 0x51 → sound → lawful → n ≤ own → judgeImage own b = .refused .badStation .r0) ∧
    (∀ img, judgeImage own b = .accepted img →
      b.getD 0 0 = 0x51 ∧ sound ∧ lawful ∧ own < n ∧ img.shelfSize = n ∧ img.signature = sig)) ∧
  (∀ (own : Nat) (b : List Byte), b.length = 108 →
    let n := (b.getD 3 0).toNat
    let sig : BitVec 16 := b.getD 1 0 ++ b.getD 2 0
    let byte (r : RailIx) (i : Nat) : Nat := (b.getD (6 + 25 * r.toNat + i) 0).toNat
    let half (r : RailIx) (i : Nat) : Nat := 256 * byte r i + byte r (i + 1)
    let fitted (r : RailIx) : Prop := byte r 0 % 2 = 1
    let named (r : RailIx) : List Ref := (List.range (min 6 (byte r 18))).map (fun i =>
      { station := byte r (19 + i) / 4 % 32, rail := RailIx.ofIndex (byte r (19 + i)) })
    let bad (r : RailIx) : Prop := fitted r ∧
      (7 < byte r 1 ∨ byte r 8 = 0 ∨ half r 4 = 0 ∨ half r 2 < half r 4 ∨ 4095 < half r 2 + half r 4 ∨
       half r 2 - half r 4 ≤ half r 6 ∨ 6 < byte r 18 ∨
       (∃ p ∈ named r, n ≤ p.station ∨ p = ⟨own, r⟩ ∨ (p.station = own ∧ ¬ fitted p.rail)) ∨
       half r 12 = 0 ∨ half r 16 = 0)
    let ring : Prop := ∃ r, Relation.TransGen (fun a q => fitted a ∧ (⟨own, q⟩ : Ref) ∈ named a) r r
    let remote : List Ref := (RailIx.all.flatMap (fun r =>
      if byte r 0 % 2 = 1 then (named r).filter (fun p => p.station ≠ own) else [])).dedup
    b.getD 0 0 = 0x51 → crc (b.take 106) = (b.getD 106 0 ++ b.getD 107 0 : BitVec 16) →
    2 ≤ n → n ≤ 32 → sig ≠ 0 → sig ≠ 0xFFFF → own < n →
    (∀ r, bad r → (∀ q : RailIx, q.toNat < r.toNat → ¬ bad q) → judgeImage own b = .refused .badRail r) ∧
    ((∀ r, ¬ bad r) → ring → judgeImage own b = .refused .badOrder .r0) ∧
    ((∀ r, ¬ bad r) → ¬ ring → 8 < remote.length → judgeImage own b = .refused .holdLimit .r0) ∧
    ((∀ r, ¬ bad r) → ¬ ring → remote.length ≤ 8 → ∃ img, judgeImage own b = .accepted img))

/-- An accepted image is one the machine can rely on: the ranges of every field of a fitted rail, a hold list that fits,
and no chain of local prerequisites from a fitted rail back to itself. Its fields are the bytes of Tables 63 and 64. -/
def Obligations.AcceptedImageIsSound : Prop :=
  ∀ (own : Nat) (b : List Byte) (img : Image), judgeImage own b = .accepted img →
    img.sound own ∧
    (∀ r : RailIx, ¬ Relation.TransGen
      (fun a q => (img.rails.get a).fitted = true ∧ (⟨own, q⟩ : Ref) ∈ (img.rails.get a).prerequisites) r r) ∧
    img.signature = b.getD 1 0xFF ++ b.getD 2 0xFF ∧ img.shelfSize = (b.getD 3 0xFF).toNat ∧
    img.dem0Mask = b.getD 4 0xFF ∧ img.dem1Mask = b.getD 5 0xFF ∧
    ∀ r : RailIx,
      let x := img.rails.get r
      let byte (i : Nat) : Byte := b.getD (6 + 25 * r.toNat + i) 0xFF
      let half (i : Nat) : Nat := 256 * (byte i).toNat + (byte (i + 1)).toNat
      x.fitted = (byte 0).getLsbD 0 ∧ x.trip = (byte 0).getLsbD 1 ∧ (x.policy = .latch ↔ (byte 0).getLsbD 2 = true) ∧
      x.pgUsed = (byte 0).getLsbD 3 ∧ (x.fitted = true → x.zone.toNat = (byte 1).toNat) ∧ x.nominal = half 2 ∧
      x.magnitude = half 4 ∧ x.dischargeLevel = half 6 ∧ x.persistence = (byte 8).toNat ∧
      x.pgDeglitch = (byte 9).toNat ∧ x.settleDelay = half 10 ∧ x.rampTimeout = half 12 ∧ x.drainTimeout = half 14 ∧
      x.dischargeTimeout = half 16 ∧ (x.fitted = true → x.prerequisites.length = (byte 18).toNat) ∧
      ∀ (i : Nat) (p : Ref), x.prerequisites[i]? = some p →
        p.station = (byte (19 + i)).toNat / 4 % 32 ∧ p.rail.toNat = (byte (19 + i)).toNat % 4

/-! ### The board port -/

/-- BP_CS falling begins a transaction in COMMAND; in reset the port takes none, and a low BP_CS does not fall again. BP_CS
rising ends the transaction; one whose command has not executed is discarded with last result TRUNCATED, unless no bit
was taken. From the bits taken the state is COMMAND up to the eighth, then ARGUMENTS while argument bytes are missing.
BP_MISO is not driven while BP_CS is high, and low up to the execution; from then on each falling edge of BP_SCK brings
the next bit of the response, most significant first, and 0 after it. While BP_CS is low in reset, or after a reset that
began with it low, no bit is taken, and that BP_MISO is low then is the model's choice: assumption 30.
The model's own choices in it: assumptions 9 and 30. -/
def Obligations.TransactionsBeginAndEnd : Prop :=
  (∀ (o : Occasion) (s : State),
     (s.port.selectLow = false →
       exec (.transactionBegin o) s = .next { s.after o with
         port := { s.port with
           selectLow := true, response := []
           transaction := if s.startup.inReset = none then .command else .idle } }) ∧
     (s.port.selectLow = true → exec (.transactionBegin o) s = .next (s.after o))) ∧
  (∀ (o : Occasion) (mosi : List Bool) (s : State),
     exec (.transactionEnd o mosi) s = .next { s.after o with
       port := { s.port with
         selectLow := false, transaction := .idle, response := []
         lastResult :=
           if (s.transactionAfter mosi = .command ∧ mosi ≠ []) ∨ s.transactionAfter mosi = .arguments then .truncated
           else s.port.lastResult } }) ∧
  (∀ (s : State) (mosi : List Bool),
     (s.port.transaction ≠ .command → s.transactionAfter mosi = s.port.transaction) ∧
     (s.port.transaction = .command →
       (mosi.length < 8 → s.transactionAfter mosi = .command) ∧
       ∀ (code : Byte) (args : List Byte) (more : List Bool),
         mosi = serialBits (code :: args) ++ more → more.length < 8 →
         s.transactionAfter mosi =
           if args.length < (if code ∈ [0x12, 0x14, 0x15, 0x30, 0x31] then 1
             else if code ∈ [0x32, 0x33] then 2 else 0) then .arguments else .response)) ∧
  (∀ (s : State) (falls : Nat),
     (s.port.selectLow = false → s.misoLevel falls = none) ∧
     (s.port.selectLow = true → s.port.transaction ≠ .response ∨ falls = 0 → s.misoLevel falls = some false) ∧
     (s.port.selectLow = true → s.port.transaction = .response → ∀ j i, i < 8 → falls = 8 * j + i + 1 →
       s.misoLevel falls = some ((s.port.response.getD j 0).getLsbD (7 - i))))

/-- The command bytes of Table 52, arguments high byte first, spell the fourteen port commands, and every other byte
spells UNKNOWN at once. The bytes are those of the bits taken on BP_MOSI at the rising edges of BP_SCK, most significant
bit first. -/
def Obligations.PortBytesSpellCommands : Prop :=
  (∀ (bs : List Byte) (more : List Bool), more.length < 8 → bytesOfBits (serialBits bs ++ more) = bs) ∧
  (∀ (b : Byte) (bs : List Byte) (i : Nat), i < 8 → (serialBits (b :: bs))[i]? = some (b.getLsbD (7 - i))) ∧
  (∀ bits : List Bool, risingBits false (bits.flatMap (fun d => [(false, d), (true, d), (false, d)])) = bits) ∧
  ∀ (o : Occasion) (straps : BitVec 5) (a b : Byte) (more : List Byte),
    decodePort o straps (0x10 :: more) = some (.readStation o) ∧
    decodePort o straps (0x11 :: more) = some (.readLine o) ∧
    decodePort o straps (0x12 :: a :: more) = some (.readPeer o a) ∧
    decodePort o straps (0x13 :: more) = some (.readZones o) ∧
    decodePort o straps (0x14 :: a :: more) = some (.readTrip o a) ∧
    decodePort o straps (0x15 :: a :: more) = some (.readRail o a) ∧
    decodePort o straps (0x20 :: more) = some (.takeRecord o) ∧
    decodePort o straps (0x30 :: a :: more) = some (.setDemand o a) ∧
    decodePort o straps (0x31 :: a :: more) = some (.clearZone o a) ∧
    decodePort o straps (0x32 :: a :: b :: more) = some (.ackFlags o (a ++ b)) ∧
    decodePort o straps (0x33 :: a :: b :: more) = some (.setAlertMask o (a ++ b)) ∧
    decodePort o straps (0x40 :: more) = some (.resumeLine o) ∧
    decodePort o straps (0x41 :: more) = some (.restart o) ∧
    decodePort o straps (0x42 :: more) = some (.reload o straps) ∧
    (a ∉ [0x10, 0x11, 0x12, 0x13, 0x14, 0x15, 0x20, 0x30, 0x31, 0x32, 0x33, 0x40, 0x41, 0x42] →
      decodePort o straps (a :: more) = some (.unknown o a))

/-- UNKNOWN, BUSY, STATE and RANGE, in that order (R183, Table 52). While a restart is pending the eight commands that
change state answer BUSY; with none pending, a line phase that does not allow a command gives STATE, and then an
argument out of range gives RANGE. A refused command changes nothing but the last result.
The model's own choice in it: assumption 9. -/
def Obligations.CommandsAreRefusedInOrder : Prop :=
  (∀ (o : Occasion) (s : State) (mask z code : Byte) (half : Half) (straps : BitVec 5),
     s.port.transaction = .command →
     exec (.unknown o code) s = .next ((s.after o).answer .unknown []) ∧
     (s.startup.restartPending = true →
       ∀ c ∈ [Instr.takeRecord o, .setDemand o mask, .clearZone o z, .ackFlags o half, .setAlertMask o half,
           .resumeLine o, .restart o, .reload o straps],
         exec c s = .next ((s.after o).answer .busy []))) ∧
  (∀ (o : Occasion) (s : State) (mask b : Byte) (straps : BitVec 5), s.port.transaction = .command →
     (8 ≤ b.toNat → exec (.readTrip o b) s = .next ((s.after o).answer .range [])) ∧
     (4 ≤ b.toNat → exec (.readRail o b) s = .next ((s.after o).answer .range [])) ∧
     (s.shelfSize ≤ b.toNat ∨ s.peers = [] → exec (.readPeer o b) s = .next ((s.after o).answer .range [])) ∧
     (s.startup.restartPending = false →
       (s.line.phase = .start ∨ s.line.phase = .unconfigured →
         exec (.setDemand o mask) s = .next ((s.after o).answer .state []) ∧
         exec (.clearZone o b) s = .next ((s.after o).answer .state [])) ∧
       (s.line.phase = .listen ∨ s.line.phase = .active ∨ s.line.phase = .muted → 8 ≤ b.toNat →
         exec (.clearZone o b) s = .next ((s.after o).answer .range [])) ∧
       (s.line.phase ≠ .muted → exec (.resumeLine o) s = .next ((s.after o).answer .state [])) ∧
       (s.line.phase ≠ .unconfigured → exec (.reload o straps) s = .next ((s.after o).answer .state []))))

/-- READ_STATION, READ_LINE, READ_PEER of an entry and READ_ZONES answer OK in every phase with the bytes of Table 66, the
last result shown being the one before the command, and change nothing else. The codes in them are those of Tables 36,
38, 46, 47, 53 and 54 and of R200.
The model's own choice in it: assumption 9. -/
def Obligations.ReadsOfStationLinePeerZones : Prop :=
  ([LinePhase.start, .unconfigured, .listen, .active, .muted].map LinePhase.code = [0, 1, 2, 3, 4] ∧
   [ConfigErrorKind.none, .badTag, .badCheck, .badShelf, .badStation, .badRail, .badOrder, .holdLimit].map
     ConfigErrorKind.code = [0, 1, 2, 3, 4, 5, 6, 7] ∧
   [RestartCause.powerOn, .resetPin, .command].map RestartCause.code = [0, 1, 2] ∧
   [Result.ok, .empty, .busy, .state, .range, .unknown, .truncated].map Result.code = [1, 2, 3, 4, 5, 6, 7] ∧
   [ErrorKind.none, .badStart, .framing, .truncated, .badLength, .badCheck, .foreign, .badStation, .duplicate].map
     ErrorKind.code = [0, 1, 2, 3, 4, 5, 6, 7, 8] ∧
   [MuteCause.none, .collision, .duplicate].map MuteCause.code = [0, 1, 2] ∧
   [Presence.absent, .present, .lost].map Presence.code = [0, 1, 2]) ∧
  (∀ (o : Occasion) (s : State), s.port.transaction = .command →
     exec (.readStation o) s = .next ((s.after o).answer .ok
       [toByte s.line.phase.code, if s.startup.restartPending then 1 else 0, s.startup.station.setWidth 8,
        toByte (match s.startup.config with | some c => c.shelfSize | none => 0), toByte s.startup.error.code,
        toByte s.startup.errorRail.toNat, toByte s.startup.cause.code, s.zones.ownDemand, s.port.portDemand,
        s.line.cycle.extractLsb' 8 8, s.line.cycle.extractLsb' 0 8,
        (s.port.flags.extractLsb' 8 1).setWidth 8, s.port.flags.extractLsb' 0 8,
        (s.port.mask.extractLsb' 8 1).setWidth 8, s.port.mask.extractLsb' 0 8, s.port.lastResult.code]) ∧
     exec (.readLine o) s = .next ((s.after o).answer .ok
       [toByte s.receiver.lastError.code, toByte s.receiver.receiveErrors, toByte s.receiver.collisions,
        toByte s.receiver.consecutive, toByte s.receiver.muteCause.code, toByte s.receiver.outOfSlot])) ∧
  (∀ (o : Occasion) (s : State), s.port.transaction = .command →
     (∀ (n : Byte) (p : Peer), n.toNat < s.shelfSize → s.peers[n.toNat]? = some p →
       exec (.readPeer o n) s = .next ((s.after o).answer .ok
         [toByte p.presence.code, toByte p.misses, (railsField p.rails).extractLsb' 8 8,
          (railsField p.rails).extractLsb' 0 8, p.demand, toByte p.holds.length, p.holds.getD 0 0, p.holds.getD 1 0,
          p.holds.getD 2 0, p.holds.getD 3 0, p.holds.getD 4 0, p.holds.getD 5 0, p.holds.getD 6 0, p.holds.getD 7 0,
          p.lastCycle.extractLsb' 8 8, p.lastCycle.extractLsb' 0 8])) ∧
     (∃ conditions demanded present : Byte,
       (∀ z : ZoneIx,
         (conditions.getLsbD z.toNat = true ↔ (s.zones.entries.get z).condition = .tripped) ∧
         demanded.getLsbD z.toNat = (s.zones.entries.get z).demanded ∧
         present.getLsbD z.toNat = (s.zones.entries.get z).record.isSome) ∧
       exec (.readZones o) s = .next ((s.after o).answer .ok
         (s.zones.entries.toList.map (·.generation) ++ [conditions, demanded, present]))))

/-- READ_TRIP answers a zone's record, or EMPTY and seven zero bytes; READ_RAIL answers in every phase, a rail not fitted
reading as OFF. Neither changes anything else. The codes in them are those of Tables 8 and 9.
The model's own choice in it: assumption 9. -/
def Obligations.ReadTripAndRailAnswer : Prop :=
  ([RailState.off, .waiting, .settling, .ramping, .good, .draining, .falling, .fault].map RailState.code =
     [0, 1, 2, 3, 4, 5, 6, 7] ∧
   [FallCause.none, .demand, .trip, .prereqLost, .restart].map FallCause.code = [0, 1, 2, 3, 4] ∧
   [FaultKind.none, .rampTimeout, .window, .pgLost, .dischargeTimeout, .backfeed].map FaultKind.code =
     [0, 1, 2, 3, 4, 5]) ∧
  ∀ (o : Occasion) (s : State), s.port.transaction = .command →
    (∀ z : ZoneIx,
      ((s.zones.entries.get z).record = none →
        exec (.readTrip o (toByte z.toNat)) s = .next ((s.after o).answer .empty [0, 0, 0, 0, 0, 0, 0])) ∧
      (∀ t : TripRecord, (s.zones.entries.get z).record = some t →
        exec (.readTrip o (toByte z.toNat)) s = .next ((s.after o).answer .ok
          [toByte t.station, toByte (16 * t.kind.code + t.rail.toNat), t.cycle.extractLsb' 8 8,
           t.cycle.extractLsb' 0 8, toByte t.slot, toByte (t.offset / 256), toByte t.offset]))) ∧
    (∀ r : RailIx,
      exec (.readRail o (toByte r.toNat)) s = .next ((s.after o).answer .ok
        [toByte (match s.fittedConfig r with | some _ => (s.rails.get r).state.code | none => 0),
         toByte (s.rails.get r).faultKind.code, toByte (s.rails.get r).fallCause.code,
         ((s.monitor.rails.get r).lastSample.extractLsb' 8 4).setWidth 8,
         (s.monitor.rails.get r).lastSample.extractLsb' 0 8, if (s.monitor.rails.get r).pg then 1 else 0,
         toByte (s.monitor.rails.get r).outside, if s.held r then 1 else 0]))

/-- TAKE_RECORD removes the oldest record and answers its six fields, the number left and the discarded count; on an
empty queue it answers EMPTY, nine zero bytes and the discarded count. The kind's code is that of Table 42, the detail's
that of Table 9 and 0 for none.
The model's own choice in it: assumption 9. -/
def Obligations.TakeRecordRemovesOldest : Prop :=
  ([RecordKind.ramp, .drain, .drainForced, .discharge, .dropout, .fault].map RecordKind.code = [1, 2, 3, 4, 5, 6] ∧
   Detail.none.code = 0 ∧ (∀ c : FallCause, (Detail.cause c).code = c.code) ∧
   (∀ k : FaultKind, (Detail.kind k).code = k.code)) ∧
  ∀ (o : Occasion) (s : State), s.port.transaction = .command → s.startup.restartPending = false →
    (∀ (x : TimingRecord) (rest : List TimingRecord), s.records.records = x :: rest →
      exec (.takeRecord o) s = .next
        (({ s.after o with records := { s.records with records := rest } }).answer .ok
          [toByte x.rail.toNat, toByte x.kind.code, toByte x.detail.code, toByte (x.width / 256), toByte x.width,
           if x.continued then 1 else 0, x.cycle.extractLsb' 8 8, x.cycle.extractLsb' 0 8, toByte rest.length,
           toByte s.records.discarded])) ∧
    (s.records.records = [] →
      exec (.takeRecord o) s = .next ((s.after o).answer .empty
        [0, 0, 0, 0, 0, 0, 0, 0, 0, toByte s.records.discarded]))

/-- SET_DEMAND replaces the port demand mask; own demand and then the shelf demand of every zone are worked out again, and
then rails make the moves that Table 10 gives them, until none has a move left. Nothing else changes.
The model's own choices in it: assumptions 5 and 9. -/
def Obligations.SetDemandReplacesMask : Prop :=
  ∀ (o : Occasion) (mask : Byte) (s : State) (c : Image),
    s.port.transaction = .command → s.startup.restartPending = false → s.startup.config = some c →
    (s.line.phase = .listen ∨ s.line.phase = .active ∨ s.line.phase = .muted) →
    let own := (if s.zones.dem0.taken then c.dem0Mask else 0) ||| (if s.zones.dem1.taken then c.dem1Mask else 0) ||| mask
    ∃ u : State, exec (.setDemand o mask) s = .next (u.answer .ok []) ∧
      State.SettlesTo o { s.after o with
        port := { s.port with portDemand := mask }
        zones := { s.zones with
          ownDemand := own
          entries := Eight.of (fun z => { s.zones.entries.get z with
            demanded := own.getLsbD z.toNat || s.peers.zipIdx.any (fun p =>
              p.2 != s.own && decide (p.1.presence = .present) && p.1.demand.getLsbD z.toNat) }) } } u

/-- Demand for its zone starts a rail that waits for nothing else: in an ACTIVE station with no other rail fitted, a rail
in OFF with no prerequisites in a NORMAL zone goes through WAITING to SETTLING in the event that brings the demand, and
on to RAMPING with its enable asserted when its settle delay is 0.
The model's own choices in it: assumptions 5 and 9. -/
def Obligations.DemandStartsFreeRail : Prop :=
  ∀ (o : Occasion) (mask : Byte) (s : State) (r : RailIx) (c : RailConfig),
    s.port.transaction = .command → s.startup.restartPending = false → s.line.phase = .active →
    s.fittedConfig r = some c → (∀ q, q ≠ r → s.fittedConfig q = none) → c.prerequisites = [] →
    (s.rails.get r).state = .off → (s.rails.get r).remoteGood = true → (s.rails.get r).remoteUp = true →
    s.zoneNormal c.zone = true → mask.getLsbD c.zone.toNat = true →
    let now := s.now + o.wait
    ∃ t : State, exec (.setDemand o mask) s = .next t ∧ t.enable r = decide (c.settleDelay = 0) ∧
      (c.settleDelay ≠ 0 → t.rails.get r = { s.rails.get r with
        state := .settling, settle := some { start := now, length := c.settleDelay }, ramp := none, drain := none
        discharge := none, since := now }) ∧
      (c.settleDelay = 0 → t.rails.get r = { s.rails.get r with
        state := .ramping, settle := none, ramp := some { start := now, length := c.rampTimeout }, drain := none
        discharge := none, since := now })

/-- CLEAR_ZONE advances the zone's generation by one, makes it NORMAL, removes its record, releases its FAULT rails to OFF
with their fault kind kept, and sets ZONE_CLEARED; then rails make the moves that Table 10 gives them. A released rail
stays in OFF where its gate is closed, and is WAITING, SETTLING or RAMPING as its prerequisites and settle delay give
where it is open and the station was at rest. Nothing else changes.
The model's own choices in it: assumptions 5 and 9. -/
def Obligations.ClearZoneAdvancesGeneration : Prop :=
  ∀ (o : Occasion) (z : ZoneIx) (s : State),
    s.port.transaction = .command → s.startup.restartPending = false →
    (s.line.phase = .listen ∨ s.line.phase = .active ∨ s.line.phase = .muted) →
    let hit (r : RailIx) : Bool :=
      match s.fittedConfig r with
      | some c => decide (c.zone = z) && decide ((s.rails.get r).state = .fault)
      | none => false
    ∃ u : State, exec (.clearZone o (toByte z.toNat)) s = .next (u.answer .ok []) ∧
      State.SettlesTo o { s.after o with
        zones := { s.zones with
          entries := s.zones.entries.set z { s.zones.entries.get z with
            generation := (s.zones.entries.get z).generation + 1, condition := .normal, record := none } }
        rails := Four.of (fun r =>
          if hit r then { s.rails.get r with
            state := .off, settle := none, ramp := none, drain := none, discharge := none, since := s.now + o.wait }
          else s.rails.get r)
        monitor := { s.monitor with rails := Four.of (fun r =>
          if hit r then { s.monitor.rails.get r with outside := 0, deglitch := none } else s.monitor.rails.get r) }
        port := { s.port with flags := s.port.flags ||| 0x004 } } u ∧
      ∀ (r : RailIx) (c : RailConfig), s.fittedConfig r = some c → c.zone = z → (s.rails.get r).state = .fault →
        let opened := s.line.phase = .active ∧ (s.zones.entries.get z).demanded = true
        (u.rails.get r).faultKind = (s.rails.get r).faultKind ∧
        (¬ opened → u.rails.get r = { s.rails.get r with
          state := .off, settle := none, ramp := none, drain := none, discharge := none, since := s.now + o.wait }) ∧
        (opened → s.atRest → s.viewFresh →
          (u.allGood c r = false → (u.rails.get r).state = .waiting) ∧
          (u.allGood c r = true → c.settleDelay ≠ 0 → (u.rails.get r).state = .settling) ∧
          (u.allGood c r = true → c.settleDelay = 0 → (u.rails.get r).state = .ramping))

/-- ACK_FLAGS clears exactly the flags its argument names in bits 8 to 0, in every line phase, and changes nothing else.
The model's own choice in it: assumption 9. -/
def Obligations.AckFlagsClearsNamedFlags : Prop :=
  ∀ (o : Occasion) (mask : Half) (s : State), s.port.transaction = .command → s.startup.restartPending = false →
    ∃ t : State, exec (.ackFlags o mask) s = .next t ∧
      (∀ i, i < 9 → t.port.flags.getLsbD i = (s.port.flags.getLsbD i && !mask.getLsbD i)) ∧
      t = ({ s.after o with port := { s.port with flags := t.port.flags } }).answer .ok []

/-- SET_ALERT_MASK, code 33h with two argument bytes, replaces the alert mask by bits 8 to 0 of its argument in every line
phase; ALERT_N then is low exactly while a set flag is enabled. While a restart is pending it answers BUSY.
The model's own choice in it: assumption 9. -/
def Obligations.SetAlertMaskReplacesMask : Prop :=
  ∀ (o : Occasion) (straps : BitVec 5) (hi lo : Byte) (s : State),
    decodePort o straps [0x33, hi, lo] = some (.setAlertMask o (hi ++ lo)) ∧
    (s.port.transaction = .command → s.startup.restartPending = true →
      exec (.setAlertMask o (hi ++ lo)) s = .next ((s.after o).answer .busy [])) ∧
    (s.port.transaction = .command → s.startup.restartPending = false →
      ∃ t : State, exec (.setAlertMask o (hi ++ lo)) s = .next t ∧
        (∀ i, i < 8 → t.port.mask.getLsbD i = lo.getLsbD i) ∧ t.port.mask.getLsbD 8 = hi.getLsbD 0 ∧
        t = ({ s.after o with port := { s.port with mask := t.port.mask } }).answer .ok [] ∧
        (s.startup.inReset = none →
          (t.alertLow = true ↔ ∃ i, i < 9 ∧ s.port.flags.getLsbD i = true ∧ t.port.mask.getLsbD i = true)))

/-- RESUME_LINE takes a MUTED station to LISTEN with its timing dropped, consecutive collisions 0 and mute cause NONE, the
collision count kept; in every other phase it answers STATE, while a restart is pending BUSY, and a refused command
changes nothing but the last result.
The model's own choice in it: assumption 9. -/
def Obligations.ResumeLineLeavesMuted : Prop :=
  ∀ (o : Occasion) (s : State), s.port.transaction = .command → s.atRest →
    (s.startup.restartPending = true → exec (.resumeLine o) s = .next ((s.after o).answer .busy [])) ∧
    (s.startup.restartPending = false → s.line.phase ≠ .muted →
      exec (.resumeLine o) s = .next ((s.after o).answer .state [])) ∧
    (s.startup.restartPending = false → s.line.phase = .muted →
      exec (.resumeLine o) s = .next (({ s.after o with
        line := { s.line with
          phase := .listen, timingHeld := false, listenCount := 0, silence := some (s.now + o.wait)
          coldMark := false, leaving := if s.line.leaving = Leaving.due then .none else s.line.leaving }
        receiver := { s.receiver with consecutive := 0, muteCause := .none } }).answer .ok []))

/-- RESTART is accepted in every line phase: the restart-pending flag is set, a load under way is abandoned, LEAVING
becomes DUE in ACTIVE, and the fitted rails move in one step: up to FALLING with cause RESTART, starting to OFF, the
others not at all. The monitor record of a rail that moves has outside count 0 and no deglitch timer. No rail moves
further, and nothing else changes.
The model's own choices in it: assumptions 5 and 9. -/
def Obligations.RestartTakesRailsDown : Prop :=
  ∀ (o : Occasion) (s : State), s.port.transaction = .command → s.startup.restartPending = false →
    ∃ u : State, exec (.restart o) s = .next (u.answer .ok []) ∧
      u.startup = { s.startup with restartPending := true, load := .idle } ∧
      u.line = { s.line with leaving := if s.line.phase = LinePhase.active then .due else s.line.leaving } ∧
      (∀ r, u.rails.get r =
        match s.fittedConfig r with
        | some c => (s.rails.get r).takenDown c .restart (s.now + o.wait)
        | none => s.rails.get r) ∧
      (∀ r, u.monitor.rails.get r =
        if (u.rails.get r).state = (s.rails.get r).state then s.monitor.rails.get r
        else { s.monitor.rails.get r with outside := 0, deglitch := none }) ∧
      u.monitor.nextSample = s.monitor.nextSample ∧
      u.now = s.now + o.wait ∧ u.pending = s.pending ∧ u.zones = s.zones ∧ u.peers = s.peers ∧
      u.receiver = s.receiver ∧ u.records = s.records ∧ u.port = s.port

/-- RELOAD in UNCONFIGURED begins a load at once with the straps read afresh; alert flags, alert mask, restart cause,
records, line status, fault kinds and fall causes are kept. From the start of a load on CM_CS_N is low for 444 µs; in
each of its 888 bits CM_SCK is low and then high, and CM_MOSI sends 03h, 00h, 00h and zeros, most significant bit first.
The image is what CM_MISO gives after the first 24 bits, and FFh in every byte with no memory.
The model's own choices in it: assumptions 9 and 22. -/
def Obligations.ReloadBeginsLoad : Prop :=
  (∀ s : State,
     (s.startup.load = .idle → s.memorySelected = false ∧ s.memoryClock = false) ∧
     (∀ began : Nat, s.startup.load = .loading began → began ≤ s.now →
       let k := s.now - began
       (k < 7104 → s.memorySelected = true ∧ s.memoryClock = decide (4 ≤ k % 8) ∧
         s.memoryData = some (if k / 8 < 24 then (0x030000 : BitVec 24).getLsbD (23 - k / 8) else false)) ∧
       (7104 ≤ k → s.memorySelected = false ∧ s.memoryClock = false))) ∧
  (∀ (image : List Byte) (levels : List Bool), image.length = 108 →
     (∀ j i, j < 108 → i < 8 →
       levels.getD (8 * (24 + 8 * j + i) + 4) true = (image.getD j 0).getLsbD (7 - i)) →
     memoryImage levels = image) ∧
  memoryImage [] = List.replicate 108 0xFF ∧
  ∀ (o : Occasion) (straps : BitVec 5) (s : State),
    s.port.transaction = .command → s.startup.restartPending = false → s.line.phase = .unconfigured →
    exec (.reload o straps) s = .next (({ s.after o with
      startup := { s.startup with load := .loading (s.now + o.wait), config := none, station := straps }
      line := { s.line with phase := .start, slotTimer := none }
      receiver := { s.receiver with reception := .off }
      peers := []
      rails := Four.of (fun r => { s.rails.get r with remoteGood := true, remoteUp := true, peerHeld := false })
      zones := { s.zones with
        ownDemand := 0
        entries := Eight.of (fun z => { s.zones.entries.get z with demanded := false }) } }).answer .ok [])

/-- The reinitialisation sets every block to its warm restart values and begins a load with the restart-pending flag still
set; both ends of a load clear the flag. Before its condition holds it is no event.
The model's own choice in it: assumption 18. -/
def Obligations.ReinitialisationSetsWarmValues : Prop :=
  ∀ (o : Occasion) (straps : BitVec 5) (s : State),
    let ready := s.startup.restartPending = true ∧ (∀ r, (s.rails.get r).state ≠ .falling) ∧ s.line.leaving ≠ Leaving.due ∧
      s.startup.load = .idle
    let now := s.now + o.wait
    (ready → exec (.reinitialisation o straps) s = .next
      { s with
        now := now
        startup := { s.startup with cause := .command, load := .loading now, config := none, station := straps }
        rails := Four.of (fun r =>
          { state := .off, settle := none, ramp := none, drain := none, discharge := none
            fallCause := (s.rails.get r).fallCause, faultKind := (s.rails.get r).faultKind, remoteGood := true
            remoteUp := true, peerHeld := false, since := now, drainFrom := 0 })
        monitor := { s.monitor with
          rails := Four.of (fun r => { s.monitor.rails.get r with outside := 0, deglitch := none }) }
        zones := { s.zones with
          entries := Eight.of (fun _ => { generation := 0, condition := .normal, record := none, demanded := false })
          ownDemand := 0, lastPart := .z7 }
        peers := []
        line := { phase := .start, slotTimer := none, timingHeld := false, syncSinceLoad := false, cycle := 0,
                  listenCount := 0, silence := none, coldMark := false, leaving := .none, send := .idle, tx := none }
        receiver := { s.receiver with reception := .off, consecutive := 0, muteCause := .none }
        port := { s.port with
          flags := if s.records.records = [] then 0 else 0x040, lastResult := .ok, portDemand := 0 } }) ∧
    (¬ ready → exec (.reinitialisation o straps) s = .next (s.after o)) ∧
    (∀ (began : Nat) (bytes : List Byte), s.startup.load = .loading began →
      ∃ t : State, exec (.configurationLoadEnd o bytes) s = .next t ∧ t.startup.restartPending = false)

/-! ### Demand pins -/

/-- DEMAND_PIN_CHANGE turns the pin's level and starts its count again; DEMAND_PIN_TAKEN, no earlier than 1 ms after the
last change, makes the level the taken one, and own demand and the shelf demand are worked out again. A pin at its taken
level is not taken, and in reset no filter runs. Then rails make the moves that Table 10 gives them, until none has a
move left.
The model's own choices in it: assumptions 2 and 5. -/
def Obligations.DemandPinsAreFiltered : Prop :=
  ∀ (o : Occasion) (pin : DemPin) (s : State),
    let p := s.zones.pin pin
    exec (.demandPinChange o pin) s = .next { s.after o with
      zones := s.zones.setPin pin { level := !p.level, changedAt := s.now + o.wait, taken := p.taken } } ∧
    (p.level = p.taken ∨ s.startup.inReset ≠ none → exec (.demandPinTaken o pin) s = .next (s.after o)) ∧
    (p.level ≠ p.taken → s.startup.inReset = none →
      let z' := s.zones.setPin pin { p with taken := p.level }
      let own : Byte :=
        match s.startup.config with
        | some c => (if z'.dem0.taken then c.dem0Mask else 0) ||| (if z'.dem1.taken then c.dem1Mask else 0)
                      ||| s.port.portDemand
        | none => 0
      ∃ t : State, exec (.demandPinTaken o pin) s = .next t ∧
        State.SettlesTo o { s with
          now := max (s.now + o.wait) (p.changedAt + 16000)
          zones := { z' with
            ownDemand := own
            entries := Eight.of (fun z => { s.zones.entries.get z with
              demanded := own.getLsbD z.toNat || s.peers.zipIdx.any (fun q =>
                q.2 != s.own && decide (q.1.presence = .present) && q.1.demand.getLsbD z.toNat) }) } } t)

/-! ### The monitor -/

/-- SAMPLE takes place at the next sample instant: the first on the 200 µs grid that does not lie before the command. It
stores all four counts and PG levels, and each rail then takes its sample once; in reset nothing is sampled.
The model's own choices in it: assumptions 2, 4, 6 and 27. -/
def Obligations.SampleStoresAllFour : Prop :=
  ∀ (o : Occasion) (counts : Four (BitVec 12)) (pg : Four Bool) (s : State),
    (s.startup.inReset ≠ none → exec (.sample o counts pg) s = .next (s.after o)) ∧
    (s.startup.inReset = none → ∃ (l : List RailIx) (t u : State) (k : Nat),
      l.Perm [.r0, .r1, .r2, .r3] ∧
      u = { s with
        now := s.monitor.nextSample + 3200 * k
        monitor := {
          nextSample := s.monitor.nextSample + 3200 * (k + 1)
          rails := Four.of (fun r =>
            { s.monitor.rails.get r with lastSample := counts.get r, pg := pg.get r }) } } ∧
      s.now + o.wait ≤ s.monitor.nextSample + 3200 * k ∧
      (∀ j, s.now + o.wait ≤ s.monitor.nextSample + 3200 * j → k ≤ j) ∧
      exec (.sample o counts pg) s = .next t ∧ t = l.foldl (fun v r => v.actOnSample o r) u ∧
      (∀ r, (t.monitor.rails.get r).lastSample = counts.get r ∧ (t.monitor.rails.get r).pg = pg.get r) ∧
      t.now = u.now ∧ t.monitor.nextSample = u.monitor.nextSample ∧ t.pending = s.pending ∧
      t.startup = s.startup ∧ t.peers = s.peers ∧ t.line = s.line ∧ t.receiver = s.receiver)

/-- Every count of a fitted rail has the one class that Table 15 gives it; both ends of the window are IN_WINDOW, and a
count equal to the discharge level is not BELOW. -/
def Obligations.SampleClassesAsTabled : Prop :=
  ∀ (c : RailConfig) (v : Nat), c.dischargeLevel < c.nominal - c.magnitude → c.magnitude ≤ c.nominal →
    (classify c v = .below ↔ v < c.dischargeLevel) ∧
    (classify c v = .inWindow ↔ c.nominal ≤ v + c.magnitude ∧ v ≤ c.nominal + c.magnitude) ∧
    (classify c v = .outside ↔
      (c.dischargeLevel ≤ v ∧ v + c.magnitude < c.nominal) ∨ c.nominal + c.magnitude < v) ∧
    classify c (c.nominal - c.magnitude) = .inWindow ∧ classify c (c.nominal + c.magnitude) = .inWindow ∧
    classify c c.dischargeLevel = .outside

/-- The first qualifying sample of a RAMPING rail queues a RAMP record and takes the rail to GOOD when its zone is
demanded, to DRAINING when it is not and the rail is held, and to FALLING with a DRAIN record of width 0 when it is
neither; the moves that Table 10 gives then follow, of which a LATCH rail in GOOD, or one in DRAINING that a peer holds,
has none. A sample later than the expiry of the ramp timer finds the rail in FAULT, and queues no RAMP record.
The model's own choices in it: assumptions 2 and 5. -/
def Obligations.QualifyingSampleEndsRamp : Prop :=
  (∀ (o : Occasion) (s : State) (r : RailIx) (c : RailConfig) (t : Timer),
     s.fittedConfig r = some c → (s.rails.get r).state = .ramping → (s.rails.get r).ramp = some t →
     t.start + t.length * 1600 < s.now → State.FaultTaken o s c r .rampTimeout (s.actOnSample o r)) ∧
  ∀ (o : Occasion) (s : State) (r : RailIx) (c : RailConfig),
    s.fittedConfig r = some c → (s.rails.get r).state = .ramping →
    (∀ t, (s.rails.get r).ramp = some t → s.now ≤ t.start + t.length * 1600) →
    classify c (s.monitor.rails.get r).lastSample.toNat = .inWindow →
    (c.pgUsed = true → (s.monitor.rails.get r).pg = true) →
    let x := { s.rails.get r with settle := none, ramp := none, drain := none, discharge := none, since := s.now }
    let width := min 65535 ((s.now - (s.rails.get r).since) / 1600)
    let q := s.queueRecord
      { rail := r, kind := .ramp, detail := .none, width := width, continued := false, cycle := s.line.cycle }
    let put (u : State) (y : Rail) : State := { u with
      rails := u.rails.set r y
      monitor := { u.monitor with
        rails := u.monitor.rails.set r { s.monitor.rails.get r with outside := 0, deglitch := none } } }
    (s.demanded c.zone = true →
      State.SettlesTo o (put q { x with state := .good }) (s.actOnSample o r) ∧
      (c.policy = .latch → (s.actOnSample o r).rails.get r = { x with state := .good })) ∧
    (s.demanded c.zone = false → s.held r = true →
      let y : Rail := { x with
        state := .draining
        drain := if c.drainTimeout = 0 then none else some { start := s.now, length := c.drainTimeout }
        drainFrom := s.now }
      State.SettlesTo o (put q y) (s.actOnSample o r) ∧
      (c.policy = .latch → (s.rails.get r).peerHeld = true → (s.actOnSample o r).rails.get r = y)) ∧
    (s.demanded c.zone = false → s.held r = false →
      State.SettlesTo o (put (q.queueRecord
          { rail := r, kind := .drain, detail := .none, width := 0, continued := false, cycle := s.line.cycle })
        { x with
          state := .falling
          discharge := some { start := s.now, length := c.dischargeTimeout }
          fallCause := .demand
          drainFrom := s.now }) (s.actOnSample o r))

/-- The first BELOW sample of a FALLING rail queues a DISCHARGE record with its fall cause and takes the rail to OFF, where
it stays while its start gate is closed; with the gate open it goes on to WAITING, and further as Table 10 gives. A
sample later than the expiry of the discharge timer finds the rail in FAULT, and queues no DISCHARGE record. A rail not
fitted, a rail in FAULT, a RAMPING rail whose sample does not qualify and a FALLING rail whose sample is not BELOW leave
the whole state as it is.
The model's own choices in it: assumptions 2 and 5. -/
def Obligations.BelowSampleEndsFall : Prop :=
  (∀ (o : Occasion) (s : State) (r : RailIx) (c : RailConfig) (t : Timer),
     s.fittedConfig r = some c → (s.rails.get r).state = .falling → (s.rails.get r).discharge = some t →
     t.start + t.length * 1600 < s.now → State.FaultTaken o s c r .dischargeTimeout (s.actOnSample o r)) ∧
  (∀ (o : Occasion) (s : State) (r : RailIx) (c : RailConfig),
     s.fittedConfig r = some c → (s.rails.get r).state = .falling →
     (∀ t, (s.rails.get r).discharge = some t → s.now ≤ t.start + t.length * 1600) →
     classify c (s.monitor.rails.get r).lastSample.toNat = .below →
     let off : Rail := { s.rails.get r with
       state := .off, settle := none, ramp := none, drain := none, discharge := none, since := s.now }
     let opened := s.line.phase = .active ∧ s.startup.restartPending = false ∧
       (s.zones.entries.get c.zone).demanded = true ∧ (s.zones.entries.get c.zone).condition = .normal
     let q := s.queueRecord
       { rail := r, kind := .discharge, detail := .cause (s.rails.get r).fallCause,
         width := min 65535 ((s.now - (s.rails.get r).since) / 1600), continued := false, cycle := s.line.cycle }
     State.SettlesTo o { q with
       rails := s.rails.set r off
       monitor := { s.monitor with
         rails := s.monitor.rails.set r { s.monitor.rails.get r with outside := 0, deglitch := none } } }
       (s.actOnSample o r) ∧
     (¬ opened → (s.actOnSample o r).rails.get r = off) ∧
     (opened → ((s.actOnSample o r).rails.get r).state ≠ .off ∧
       (s.atRest → s.viewFresh →
         let u := s.actOnSample o r
         (u.allGood c r = false → (u.rails.get r).state = .waiting) ∧
         (u.allGood c r = true → c.settleDelay ≠ 0 → (u.rails.get r).state = .settling) ∧
         (u.allGood c r = true → c.settleDelay = 0 → (u.rails.get r).state = .ramping)))) ∧
  (∀ (o : Occasion) (s : State) (r : RailIx),
     (s.fittedConfig r = none → s.actOnSample o r = s) ∧
     ∀ c, s.fittedConfig r = some c →
       let m := s.monitor.rails.get r
       ((s.rails.get r).state = .fault → s.actOnSample o r = s) ∧
       ((s.rails.get r).state = .ramping →
         (∀ t, (s.rails.get r).ramp = some t → s.now ≤ t.start + t.length * 1600) →
         classify c m.lastSample.toNat ≠ .inWindow ∨ (c.pgUsed = true ∧ m.pg = false) → s.actOnSample o r = s) ∧
       ((s.rails.get r).state = .falling →
         (∀ t, (s.rails.get r).discharge = some t → s.now ≤ t.start + t.length * 1600) →
         classify c m.lastSample.toNat ≠ .below → s.actOnSample o r = s))

/-- A rail in OFF, WAITING or SETTLING counts consecutive samples at or above its discharge level; a BELOW sample sets the
count to 0, and the sample that brings it to the persistence is a BACKFEED fault.
The model's own choice in it: assumption 5. -/
def Obligations.BackfeedIsCounted : Prop :=
  ∀ (o : Occasion) (s : State) (r : RailIx) (c : RailConfig),
    s.fittedConfig r = some c →
    ((s.rails.get r).state = .off ∨ (s.rails.get r).state = .waiting ∨ (s.rails.get r).state = .settling) →
    let m := s.monitor.rails.get r
    let below := classify c m.lastSample.toNat = .below
    let counted (n : Nat) : State := { s with
      monitor := { s.monitor with rails := s.monitor.rails.set r { m with outside := n } } }
    (below → s.actOnSample o r = counted 0) ∧
    (¬ below → m.outside + 1 < c.persistence → s.actOnSample o r = counted (m.outside + 1)) ∧
    (¬ below → c.persistence ≤ m.outside + 1 → State.FaultTaken o s c r .backfeed (s.actOnSample o r))

/-- A rail in GOOD or DRAINING counts consecutive samples that are not IN_WINDOW, and the one that brings the count to the
persistence is a WINDOW fault, whatever the PG level does at that sample; where it also ends a dropout, the DROPOUT
record comes first. A rail that uses PG starts its deglitch timer at a low PG sample, faults at once when the deglitch
is 0, and ends the dropout with a DROPOUT record at a high one; other samples leave the timer. A sample later than the
expiry of the deglitch timer finds the rail in FAULT with PG_LOST.
The model's own choices in it: assumptions 2, 5 and 13. -/
def Obligations.RailUpIsSupervised : Prop :=
  (∀ (o : Occasion) (s : State) (r : RailIx) (c : RailConfig),
     s.fittedConfig r = some c → ((s.rails.get r).state = .good ∨ (s.rails.get r).state = .draining) →
     let m := s.monitor.rails.get r
     let within := classify c m.lastSample.toNat = .inWindow
     let late (d : Timer) := d.start + d.length * 1600 < s.now
     (∀ d, c.pgUsed = true → m.deglitch = some d → late d → State.FaultTaken o s c r .pgLost (s.actOnSample o r)) ∧
     (¬ within → c.persistence ≤ m.outside + 1 →
       (m.deglitch = none ∨ c.pgUsed = false → State.FaultTaken o s c r .window (s.actOnSample o r)) ∧
       (∀ d, m.deglitch = some d → ¬ late d → m.pg = false →
         State.FaultTaken o s c r .window (s.actOnSample o r)) ∧
       (∀ d, c.pgUsed = true → m.deglitch = some d → ¬ late d → m.pg = true →
         State.FaultTaken o (s.queueRecord
           { rail := r, kind := .dropout, detail := .none, width := min 65535 ((s.now - d.start) / 1600),
             continued := false, cycle := s.line.cycle }) c r .window (s.actOnSample o r))) ∧
     (c.pgUsed = false → within ∨ m.outside + 1 < c.persistence →
       s.actOnSample o r = { s with monitor := { s.monitor with
         rails := s.monitor.rails.set r { m with outside := if within then 0 else m.outside + 1 } } })) ∧
  (∀ (o : Occasion) (s : State) (r : RailIx) (c : RailConfig),
     s.fittedConfig r = some c → ((s.rails.get r).state = .good ∨ (s.rails.get r).state = .draining) →
     c.pgUsed = true →
     let m := s.monitor.rails.get r
     let within := classify c m.lastSample.toNat = .inWindow
     let count := if within then 0 else m.outside + 1
     let put (u : State) (d : Option Timer) : State := { u with
       monitor := { u.monitor with rails := u.monitor.rails.set r { m with outside := count, deglitch := d } } }
     (within ∨ m.outside + 1 < c.persistence) →
     (m.deglitch = none → m.pg = true → s.actOnSample o r = put s none) ∧
     (m.deglitch = none → m.pg = false → c.pgDeglitch ≠ 0 →
       s.actOnSample o r = put s (some { start := s.now, length := c.pgDeglitch })) ∧
     (m.deglitch = none → m.pg = false → c.pgDeglitch = 0 → State.FaultTaken o s c r .pgLost (s.actOnSample o r)) ∧
     (∀ d, m.deglitch = some d → s.now ≤ d.start + d.length * 1600 → m.pg = false →
       s.actOnSample o r = put s (some d)) ∧
     (∀ d, m.deglitch = some d → s.now ≤ d.start + d.length * 1600 → m.pg = true →
       s.actOnSample o r = (put s none).queueRecord
         { rail := r, kind := .dropout, detail := .none, width := min 65535 ((s.now - d.start) / 1600),
           continued := false, cycle := s.line.cycle }))

/-! ### Rail timers -/

/-- When the settle timer of a SETTLING rail expires with every prerequisite GOOD or DRAINING, the rail goes to RAMPING with
its enable asserted and its ramp timer started, no earlier than the timer's length after its start; no other rail moves.
A timer that does not run does not expire.
The model's own choice in it: assumption 2. -/
def Obligations.SettleExpiryStartsRamp : Prop :=
  ∀ (o : Occasion) (s : State) (r : RailIx) (c : RailConfig), s.fittedConfig r = some c →
    ((s.rails.get r).settle = none → exec (.settleTimerExpiry o r) s = .next (s.after o)) ∧
    (∀ t : Timer, s.atRest → (s.rails.get r).state = .settling → (s.rails.get r).settle = some t →
      s.allUp c r = true →
      let now := max (s.now + o.wait) (t.start + t.length * 1600)
      ∃ u : State, exec (.settleTimerExpiry o r) s = .next u ∧ u.enable r = true ∧
        u = { s with
          now := now
          rails := s.rails.set r { s.rails.get r with
            state := .ramping, settle := none, ramp := some { start := now, length := c.rampTimeout }, drain := none
            discharge := none, since := now }
          monitor := { s.monitor with
            rails := s.monitor.rails.set r { s.monitor.rails.get r with outside := 0, deglitch := none } } })

/-- The expiry of a ramp timer, a discharge timer or a deglitch timer is a fault of its kind, taken no earlier than the
timer's length after its start; a timer that does not run does not expire. The shelf time that stamps the trip of a fault is
the slot of the slot timer and the whole µs since that slot started, held at 449.
The model's own choices in it: assumptions 2, 5 and 14. -/
def Obligations.TimerExpiryFaults : Prop :=
  (∀ (s : State) (t : SlotTimer), s.line.slotTimer = some t →
    s.shelfSlot = t.slot ∧ s.shelfOffset = min 449 ((s.now - t.start) / 16)) ∧
  ∀ (o : Occasion) (s : State) (r : RailIx) (c : RailConfig), s.fittedConfig r = some c →
    let due (t : Timer) : State := { s with now := max (s.now + o.wait) (t.start + t.length * 1600) }
    (∀ t : Timer, (s.rails.get r).state = .ramping → (s.rails.get r).ramp = some t →
      ∃ u : State, exec (.rampTimeout o r) s = .next u ∧ State.FaultTaken o (due t) c r .rampTimeout u) ∧
    (∀ t : Timer, (s.rails.get r).state = .falling → (s.rails.get r).discharge = some t →
      ∃ u : State, exec (.dischargeTimeout o r) s = .next u ∧ State.FaultTaken o (due t) c r .dischargeTimeout u) ∧
    (∀ t : Timer, (s.rails.get r).state = .good ∨ (s.rails.get r).state = .draining →
      (s.monitor.rails.get r).deglitch = some t →
      ∃ u : State, exec (.pgLost o r) s = .next u ∧ State.FaultTaken o (due t) c r .pgLost u) ∧
    ((s.rails.get r).ramp = none → exec (.rampTimeout o r) s = .next (s.after o)) ∧
    ((s.rails.get r).discharge = none → exec (.dischargeTimeout o r) s = .next (s.after o)) ∧
    ((s.monitor.rails.get r).deglitch = none → exec (.pgLost o r) s = .next (s.after o))

/-- The expiry of the drain timer takes a DRAINING rail to FALLING with cause DEMAND and a DRAIN_FORCED record whose width
is the drain timeout, held or not; the losses that follow are taken after it. When the width of a drain with no limit
reaches 65,535 ticks a continued DRAIN record is queued and the width starts again from 0, and nothing else changes.
The model's own choices in it: assumptions 2 and 5. -/
def Obligations.DrainsAreForcedAndContinued : Prop :=
  (∀ (o : Occasion) (s : State) (r : RailIx) (c : RailConfig), s.fittedConfig r = some c →
     ((s.rails.get r).drain = none → exec (.drainForced o r) s = .next (s.after o)) ∧
     (∀ t : Timer, (s.rails.get r).state = .draining → (s.rails.get r).drain = some t →
       let now := max (s.now + o.wait) (t.start + t.length * 1600)
       let q := State.queueRecord { s with now := now }
         { rail := r, kind := .drainForced, detail := .none, width := c.drainTimeout, continued := false,
           cycle := s.line.cycle }
       ∃ u : State, exec (.drainForced o r) s = .next u ∧ u.enable r = false ∧
         State.SettlesTo o { q with
           rails := s.rails.set r { s.rails.get r with
             state := .falling, settle := none, ramp := none, drain := none
             discharge := some { start := now, length := c.dischargeTimeout }, fallCause := .demand, since := now }
           monitor := { s.monitor with
             rails := s.monitor.rails.set r { s.monitor.rails.get r with outside := 0, deglitch := none } } } u)) ∧
  (∀ (o : Occasion) (s : State) (r : RailIx) (c : RailConfig), s.fittedConfig r = some c →
     (s.rails.get r).state = .draining → c.drainTimeout = 0 →
     let full := (s.rails.get r).drainFrom + 65535 * 1600
     let q := State.queueRecord { s with now := max (s.now + o.wait) full }
       { rail := r, kind := .drain, detail := .none, width := 65535, continued := true, cycle := s.line.cycle }
     exec (.drainContinued o r) s = .next { q with rails := s.rails.set r { s.rails.get r with drainFrom := full } })

/-- A record joins a queue with room at its end, setting RECORDS_WAITING when the queue was empty; a queue that holds 16
discards it, counts it up to 255 and sets RECORDS_OVERFLOW. Nothing else changes. -/
def Obligations.QueueKeepsOldest : Prop :=
  ∀ (s : State) (x : TimingRecord),
    (s.records.records.length < 16 →
      s.queueRecord x = { s with
        records := { s.records with records := s.records.records ++ [x] }
        port := { s.port with flags := s.port.flags ||| (if s.records.records = [] then 0x040 else 0) } }) ∧
    (16 ≤ s.records.records.length →
      s.queueRecord x = { s with
        records := { s.records with discarded := min 255 (s.records.discarded + 1) }
        port := { s.port with flags := s.port.flags ||| 0x080 } })

/-! ### The line -/

/-- While timing is not held a slot boundary moves the slot timer on and ends an own slot in which a frame was begun, and is
handed to no other block; a stopped slot timer reaches no boundary.
The model's own choices in it: assumptions 2 and 21. -/
def Obligations.UntimedSlotBoundary : Prop :=
  ∀ (o : Occasion) (s : State),
    (s.line.slotTimer = none → exec (.slotBoundary o) s = .next (s.after o)) ∧
    (∀ t : SlotTimer, s.line.slotTimer = some t → s.line.timingHeld = false →
      let next := if t.slot + 1 < s.shelfSize then t.slot + 1 else 0
      let ended := t.slot = s.own ∧ s.line.send ≠ .idle
      exec (.slotBoundary o) s = .next { s with
        now := max (s.now + o.wait) (t.start + 7200)
        peers := s.peers.modify next (fun p => { p with heard := false })
        line := { s.line with
          slotTimer := some { slot := next, start := t.start + 7200 }
          send := if ended then .idle else s.line.send
          tx := if ended then none else s.line.tx }
        receiver := { s.receiver with
          reception := if ended ∧ s.receiver.reception = .blocked then .waiting none else s.receiver.reception } })

/-- While timing is held a slot boundary also makes the miss check of the slot that ended, advances the cycle number at a
start of slot 0, and counts the listen period, whose end makes a station with no restart pending ACTIVE. The end of an own
slot in which a frame was begun returns the send state to IDLE, drops the frame and takes the receiver from BLOCKED to
WAITING.
The model's own choices in it: assumptions 2, 4 and 21. -/
def Obligations.TimedSlotBoundary : Prop :=
  ∀ (o : Occasion) (s : State) (t : SlotTimer),
    s.line.slotTimer = some t → s.line.timingHeld = true → t.slot < s.shelfSize → 2 ≤ s.shelfSize →
    let next := if t.slot + 1 < s.shelfSize then t.slot + 1 else 0
    let counts := s.line.phase = .listen ∧ s.line.listenCount < s.shelfSize
    let ended := t.slot = s.own ∧ s.line.send ≠ .idle
    let missed (p : Peer) : Prop := t.slot ≠ s.own ∧ p.presence = .present ∧ p.heard = false
    ∃ u : State, exec (.slotBoundary o) s = .next u ∧
      u.now = max (s.now + o.wait) (t.start + 7200) ∧ u.pending = s.pending ∧ u.startup = s.startup ∧
      u.line.slotTimer = some { slot := next, start := t.start + 7200 } ∧ u.line.timingHeld = true ∧
      u.line.cycle = (if next = 0 then s.line.cycle + 1 else s.line.cycle) ∧
      (counts → u.line.listenCount = s.line.listenCount + 1) ∧
      (¬ counts → u.line.listenCount = s.line.listenCount) ∧
      (counts → s.line.listenCount + 1 = s.shelfSize → s.startup.restartPending = false → u.line.phase = .active) ∧
      (¬ (counts ∧ s.line.listenCount + 1 = s.shelfSize ∧ s.startup.restartPending = false) →
        u.line.phase = s.line.phase) ∧
      u.line.send = (if t.slot = s.own then .idle else s.line.send) ∧
      u.line.tx = (if ended then none else s.line.tx) ∧
      u.receiver = { s.receiver with
        reception := if ended ∧ s.receiver.reception = .blocked then .waiting none else s.receiver.reception } ∧
      (∀ (i : Nat) (p : Peer), s.peers[i]? = some p →
        ∃ p', u.peers[i]? = some p' ∧
          (i = t.slot → missed p → p' = { p with
            misses := p.misses + 1, presence := if 3 ≤ p.misses + 1 then .lost else p.presence }) ∧
          (i = t.slot → ¬ missed p → p' = p) ∧
          (i = next → p' = { p with heard := false }) ∧
          (i ≠ t.slot → i ≠ next → p' = p)) ∧
      (∀ p, s.peers[t.slot]? = some p → missed p → 2 ≤ p.misses → u.flagSet .peerLost = true) ∧
      (∀ z, (u.zones.entries.get z).generation = (s.zones.entries.get z).generation ∧
        (u.zones.entries.get z).condition = (s.zones.entries.get z).condition ∧
        (u.zones.entries.get z).record = (s.zones.entries.get z).record) ∧
      (∀ r, (s.rails.get r).state = .falling ∨ (s.rails.get r).state = .fault →
        (u.rails.get r).state = (s.rails.get r).state)

/-- An own frame that is due is built 10 µs after the start of the own slot from the blocks as they stand, and its sending
begins: the own peer entry is set, the receiver is BLOCKED, and the last part zone moves to the zone of the part, but for
a LEAVING frame, which has no demand, no holds and no part. Nothing else changes; a frame that is not due is not built.
The station drives the dominant level exactly while its send state is SENDING and the bit of its frame running is 0, ten
bits of 1 µs to a byte: a start bit 0, eight data bits least significant first, a stop bit 1.
The model's own choice in it: assumption 2. -/
def Obligations.FrameBuildSendsTheStateAsItStands : Prop :=
  (∀ s : State, s.drivesDominant = true ↔ s.line.send = .sending ∧ ∃ (f : OutFrame) (b : Byte),
    let k := (s.now - f.start) / 16
    s.line.tx = some f ∧ f.bytes[k / 10]? = some b ∧
      (k % 10 = 0 ∨ (1 ≤ k % 10 ∧ k % 10 ≤ 8 ∧ b.getLsbD (k % 10 - 1) = false))) ∧
  ∀ (o : Occasion) (s : State) (img : Image) (t : SlotTimer),
    s.startup.config = some img → s.line.slotTimer = some t →
    let due := t.slot = s.own ∧ s.line.phase = .active ∧ s.line.timingHeld = true ∧ s.line.send = .idle ∧
      ¬ (s.startup.restartPending = true ∧ s.line.leaving = .done)
    let leaving := decide (s.line.leaving = Leaving.due)
    let now := max (s.now + o.wait) (t.start + 160)
    (¬ due → exec (.frameBuild o) s = .next (s.after o)) ∧
    (due → ∃ (f : Frame) (u : State), exec (.frameBuild o) s = .next u ∧
      f.station = s.startup.station.setWidth 8 ∧ f.leaving = leaving ∧ f.signature = img.signature ∧
      f.cycle = s.line.cycle ∧
      (∀ r, f.rails.get r = match s.fittedConfig r with | some _ => (s.rails.get r).state | none => .off) ∧
      f.demand = (if leaving then 0 else s.zones.ownDemand) ∧
      (∀ z, f.generations.get z = (s.zones.entries.get z).generation ∧
        f.tripMask.getLsbD z.toNat = decide ((s.zones.entries.get z).condition = .tripped)) ∧
      f.holds = (if leaving then [] else s.holdList) ∧
      f.part = (if leaving then none else s.partNow) ∧
      u = { s with
        now := now
        peers := s.peers.modify s.own (fun p => { p with
          presence := if leaving then .lost else .present
          misses := 0, rails := f.rails, demand := f.demand, holds := f.holds, lastCycle := f.cycle })
        zones := { s.zones with
          lastPart := if leaving then s.zones.lastPart else (s.nextPartZone.getD s.zones.lastPart) }
        line := { s.line with
          send := .sending, tx := some { bytes := f.toBytes, start := now, leaving := leaving } }
        receiver := { s.receiver with reception := .blocked } })

/-- The hold list holds exactly the remote prerequisites of fitted rails in a held state, each once, in ascending order of
station and rail; for an image that passed the checks it has at most 8 entries. -/
def Obligations.HoldListIsExact : Prop :=
  ∀ (s : State) (c : Image), s.startup.config = some c →
    (∀ r, ∀ p ∈ (c.rails.get r).prerequisites, p.station < 32) →
    (s.holdList.map BitVec.toNat).Pairwise (· < ·) ∧
    (∀ p : Ref, p.station < 32 →
      (p.toByte ∈ s.holdList ↔
        p.station ≠ s.own ∧ ∃ r, (c.rails.get r).fitted = true ∧
          ((s.rails.get r).state = .settling ∨ (s.rails.get r).state = .ramping ∨ (s.rails.get r).state = .good ∨
            (s.rails.get r).state = .draining ∨ (s.rails.get r).state = .falling) ∧
          p ∈ (c.rails.get r).prerequisites)) ∧
    (c.sound s.own → s.holdList.length ≤ 8)

/-- The trip part comes from the first zone after the last part zone, wrapping from Z7 to Z0 and looking at the last part
zone itself last, that is TRIPPED with its record present; there is none exactly when no zone is. The part carries the
zone and the six fields of its record. -/
def Obligations.TripPartRotates : Prop :=
  ∀ s : State,
    let eligible (z : ZoneIx) : Prop :=
      (s.zones.entries.get z).condition = .tripped ∧ (s.zones.entries.get z).record.isSome = true
    let after (z : ZoneIx) : Nat := (z.toNat + 7 - s.zones.lastPart.toNat) % 8
    (∀ z, s.nextPartZone = some z ↔ eligible z ∧ ∀ y, eligible y → after z ≤ after y) ∧
    (s.nextPartZone = none ↔ ∀ z, ¬ eligible z) ∧
    (s.nextPartZone = none → s.partNow = none) ∧
    (∀ z t, s.nextPartZone = some z → (s.zones.entries.get z).record = some t →
      ∃ p, s.partNow = some p ∧ p.zone.toNat = z.toNat ∧ p.station = toByte t.station ∧ p.rail = t.rail ∧
        p.kindCode.toNat = t.kind.code ∧ p.cycle = t.cycle ∧ p.slot = toByte t.slot ∧
        p.offset = BitVec.ofNat 16 t.offset)

/-- A collision stops the frame and is counted. A cold-start frame then takes the station back to LISTEN and leaves the
consecutive collisions; any other counts one more, and the third in a row mutes the station with LINE_MUTED. A frame
read back clean sets the consecutive collisions to 0 and clears the cold-start mark, the send state staying SENDING to
the end of the slot. A LEAVING frame is DONE either way.
The model's own choices in it: assumptions 2 and 5. -/
def Obligations.OwnFrameEndsCleanOrCutOff : Prop :=
  (∀ (o : Occasion) (s : State),
     (s.line.send ≠ .sending ∨ s.line.tx = none → exec (.collision o) s = .next (s.after o)) ∧
     (∀ f : OutFrame, s.line.send = .sending → s.line.tx = some f →
       let leaving := if f.leaving then Leaving.done else s.line.leaving
       let cut : State := { s.after o with
         line := { s.line with send := .cutOff, tx := none, leaving := leaving }
         receiver := { s.receiver with collisions := min 255 (s.receiver.collisions + 1) } }
       let silent := if leaving = Leaving.due then Leaving.none else leaving
       let peers := if s.line.phase = .active then
         s.peers.modify s.own (fun p => { p with presence := .lost }) else s.peers
       (s.line.coldMark = false → s.receiver.consecutive < 2 →
         exec (.collision o) s = .next { cut with
           receiver := { cut.receiver with consecutive := s.receiver.consecutive + 1 } }) ∧
       (s.line.coldMark = false → 2 ≤ s.receiver.consecutive →
         ∃ u : State, exec (.collision o) s = .next u ∧
           State.SettlesTo o { cut with
             peers := peers
             line := { cut.line with
               phase := .muted, listenCount := 0, silence := none, coldMark := false, leaving := silent }
             receiver := { cut.receiver with consecutive := 3, muteCause := .collision }
             port := { s.port with flags := s.port.flags ||| 0x020 } } u) ∧
       (s.line.coldMark = true →
         ∃ u : State, exec (.collision o) s = .next u ∧
           State.SettlesTo o { cut with
             peers := peers
             line := { cut.line with
               phase := .listen, timingHeld := false, listenCount := 0, silence := some (s.now + o.wait)
               coldMark := false, leaving := silent } } u))) ∧
  (∀ (o : Occasion) (s : State),
     (s.line.send ≠ .sending ∨ s.line.tx = none → exec (.ownFrameEnd o) s = .next (s.after o)) ∧
     (∀ f : OutFrame, s.line.send = .sending → s.line.tx = some f →
       exec (.ownFrameEnd o) s = .next { s with
         now := max (s.now + o.wait) (f.start + 160 * f.bytes.length)
         line := { s.line with
           tx := none, coldMark := false, leaving := if f.leaving then .done else s.line.leaving }
         receiver := { s.receiver with consecutive := 0 } }))

/-- After (N + own number) × 450 µs of silence in LISTEN without timing a station sets its own timing, with cycle number 0
unless it has synchronised since the load, and enters ACTIVE with the cold-start mark set; with a restart pending the
silence timer stops and the station stays silent. Otherwise there is no cold start.
The model's own choices in it: assumptions 2 and 5. -/
def Obligations.ColdStartEntersActive : Prop :=
  ∀ (o : Occasion) (s : State),
    (s.line.silence = none ∨ s.line.phase ≠ .listen ∨ s.line.timingHeld = true →
      exec (.coldStart o) s = .next (s.after o)) ∧
    (∀ t : Nat, s.line.silence = some t → s.line.phase = .listen → s.line.timingHeld = false →
      let now := max (s.now + o.wait) (t + (s.shelfSize + s.own) * 7200)
      (s.startup.restartPending = true →
        exec (.coldStart o) s = .next { s with now := now, line := { s.line with silence := none } }) ∧
      (s.startup.restartPending = false →
        ∃ u : State, exec (.coldStart o) s = .next u ∧
          State.SettlesTo o { s with
            now := now
            line := { s.line with
              phase := .active, slotTimer := some { slot := s.own, start := now }, timingHeld := true
              cycle := if s.line.syncSinceLoad then s.line.cycle else 0, silence := none, coldMark := true } } u))

/-- A frame start sets a running silence timer back to 0 in every reception state but OFF. A receiver in WAITING begins to
receive, with the start of the frame noted, unless it comes at most 20 µs after the end of the frame judged last at its
expected length, which leaves it in WAITING. A frame being received goes on, and a BLOCKED receiver stays BLOCKED. That
the instant is the start of the frame whatever bytes follow is the model's choice: assumption 28.
The model's own choices in it: assumptions 19 and 28. -/
def Obligations.FrameStartBeginsReception : Prop :=
  ∀ (o : Occasion) (s : State),
    let now := s.now + o.wait
    let after (x : Reception) : State := { s.after o with
      line := { s.line with silence := if s.line.silence = none then none else some now }
      receiver := { s.receiver with reception := x } }
    (s.receiver.reception = .off → exec (.frameStart o) s = .next (s.after o)) ∧
    (s.receiver.reception = .waiting none → exec (.frameStart o) s = .next (after (.receiving now))) ∧
    (∀ ended : Nat, s.receiver.reception = .waiting (some ended) →
      (ended + 320 < now → exec (.frameStart o) s = .next (after (.receiving now))) ∧
      (now ≤ ended + 320 → exec (.frameStart o) s = .next (after (.waiting (some ended))))) ∧
    (∀ t₀ : Nat, s.receiver.reception = .receiving t₀ → exec (.frameStart o) s = .next (after (.receiving t₀))) ∧
    (s.receiver.reception = .blocked → exec (.frameStart o) s = .next (after .blocked))

/-! ### Reception -/

/-- A refused frame, received whole or ended by a gap, sets the last error kind and adds 1 to the receive error count, and
changes nothing else; a DUPLICATE also mutes a station in LISTEN or ACTIVE, and in MUTED sets the mute cause. A frame
start after which no byte was cut yields no frame and is counted nowhere; a receiver that is not RECEIVING takes neither
frame nor gap. In ACTIVE the own peer entry becomes LOST; that it does so also where it is still ABSENT, before the first
frame build, is the model's choice between R117 and R113 with R121: assumption 25.
The model's own choices in it: assumptions 2, 5, 11 and 25. -/
def Obligations.RefusedFrameIsCounted : Prop :=
  (∀ (o : Occasion) (rx : List RxByte) (s : State) (img : Image) (t₀ : Nat) (e : ErrorKind),
     s.startup.config = some img → s.receiver.reception = .receiving t₀ → judgeFrame img s.own rx = .refused e →
     let counted (now : Nat) (ended : Option Nat) (cause : MuteCause) : State := { s with
       now := now
       receiver := { s.receiver with
         reception := .waiting ended, lastError := e, receiveErrors := min 255 (s.receiver.receiveErrors + 1)
         muteCause := cause } }
     let outcome (now : Nat) (ended : Option Nat) (u : State) : Prop :=
       (e ≠ .duplicate → u = counted now ended s.receiver.muteCause) ∧
       (e = .duplicate → s.line.phase = .muted → u = counted now ended .duplicate) ∧
       (e = .duplicate → s.line.phase = .listen ∨ s.line.phase = .active →
         State.SettlesTo o { counted now ended .duplicate with
           peers := if s.line.phase = .active then
             s.peers.modify s.own (fun p => { p with presence := .lost }) else s.peers
           line := { s.line with
             phase := .muted, listenCount := 0, silence := none, coldMark := false
             leaving := if s.line.leaving = Leaving.due then .none else s.line.leaving }
           port := { s.port with flags := s.port.flags ||| 0x020 } } u)
     (expectedLength (rx.map (·.data)) = some rx.length →
       let now := max (s.now + o.wait) (t₀ + 160 * rx.length)
       ∃ u : State, exec (.frameReceived o rx) s = .next u ∧ outcome now (some now) u) ∧
     (rx ≠ [] →
       ∃ u : State, exec (.receptionGap o rx) s = .next u ∧
         outcome (max (s.now + o.wait) (t₀ + 160 * rx.length + 320)) none u)) ∧
  (∀ (o : Occasion) (s : State) (rx : List RxByte),
     (∀ t₀, s.receiver.reception = .receiving t₀ →
       exec (.receptionGap o []) s = .next { s with
         now := max (s.now + o.wait) (t₀ + 320), receiver := { s.receiver with reception := .waiting none } }) ∧
     ((∀ t₀, s.receiver.reception ≠ .receiving t₀) →
       exec (.receptionGap o rx) s = .next (s.after o) ∧ exec (.frameReceived o rx) s = .next (s.after o)))

/-- A valid frame reaches three blocks, in whatever order. The peer table takes the sender's report whole, or marks the
sender of a LEAVING frame LOST; the zone table takes each zone by adoption in LISTEN and by comparison otherwise; line
access synchronises, realigns, or notes the frame OUT_OF_SLOT. The other peers' entries and own demand stay. A newer
generation releases the FAULT rails of its zone, and no other FAULT rail leaves FAULT; a rail that was up in a zone the
frame trips is FALLING, with cause TRIP where the zone table goes before the peer table. A frame is in its slot when its
start lies at most 20 µs from 10 µs after a start of that slot by the station's timer.
The model's own choices in it: assumptions 4, 5 and 11. -/
def Obligations.ValidFrameReachesThreeBlocks : Prop :=
  (∀ (t : SlotTimer) (n k t₀ : Nat), 1 ≤ n →
    (inSlotWindow t n k t₀ = true ↔
      ∃ cycles : Int, |(t₀ : Int) - (t.start + ((k : Int) - t.slot) * 7200 + cycles * (n * 7200) + 160)| ≤ 320)) ∧
  ∀ (o : Occasion) (rx : List RxByte) (s : State) (img : Image) (t₀ : Nat) (f : Frame) (t : SlotTimer),
    s.startup.config = some img → s.receiver.reception = .receiving t₀ → judgeFrame img s.own rx = .valid f →
    expectedLength (rx.map (·.data)) = some rx.length → s.line.slotTimer = some t → s.peers.length = img.shelfSize →
    let inSlot := s.line.timingHeld = false ∨ inSlotWindow t s.shelfSize f.station.toNat t₀ = true
    ∃ u : State, exec (.frameReceived o rx) s = .next u ∧
      u.now = max (s.now + o.wait) (t₀ + 160 * rx.length) ∧ u.pending = s.pending ∧ u.startup = s.startup ∧
      (∃ old new, s.peers[f.station.toNat]? = some old ∧ u.peers = s.peers.set f.station.toNat new ∧
        new = { old with
          presence := if f.leaving then .lost else .present, misses := 0, rails := f.rails
          demand := if f.leaving then 0 else f.demand, holds := if f.leaving then [] else f.holds
          lastCycle := f.cycle, heard := true } ∧
        (old.presence = .lost → f.leaving = false → u.flagSet .peerFound = true) ∧
        (old.presence = .present → f.leaving = true → u.flagSet .peerLost = true)) ∧
      (∀ z,
        let part := match f.part with
          | some p => partFor (p.accepted s.shelfSize f.tripMask) z
          | none => none
        let e := s.zones.entries.get z
        let out := if s.line.phase = .listen
          then adoptZone e (f.generations.get z) (f.tripMask.getLsbD z.toNat) part
          else compareZone e (f.generations.get z) (f.tripMask.getLsbD z.toNat) part
        (u.zones.entries.get z).generation = out.entry.generation ∧
        (u.zones.entries.get z).condition = out.entry.condition ∧
        (u.zones.entries.get z).record = out.entry.record ∧
        (out.trippedFlag = true → u.flagSet .zoneTripped = true) ∧
        (out.clearedFlag = true → u.flagSet .zoneCleared = true)) ∧
      u.zones.ownDemand = s.zones.ownDemand ∧ u.zones.lastPart = s.zones.lastPart ∧
      (inSlot → u.line = { s.line with
          slotTimer := some { slot := f.station.toNat, start := t₀ - 160 }, timingHeld := true, syncSinceLoad := true
          cycle := if cycleAhead f.cycle s.line.cycle then f.cycle else s.line.cycle, silence := none } ∧
        u.receiver = { s.receiver with reception := .waiting (some u.now) }) ∧
      (¬ inSlot → u.line = s.line ∧
        u.receiver = { s.receiver with
          reception := .waiting (some u.now), outOfSlot := min 255 (s.receiver.outOfSlot + 1) }) ∧
      (∀ r, (s.rails.get r).state = .falling → u.rails.get r = { s.rails.get r with
        remoteGood := (u.rails.get r).remoteGood, remoteUp := (u.rails.get r).remoteUp
        peerHeld := (u.rails.get r).peerHeld }) ∧
      (∀ (r : RailIx) (c : RailConfig), s.fittedConfig r = some c →
        let out := s.zoneOutcome f c.zone
        let zonesFirst := ∃ l₁ l₂, blockOrder o = l₁ ++ Block.zoneTable :: l₂ ∧ Block.peerTable ∈ l₂
        ((s.rails.get r).state = .fault → (u.rails.get r).faultKind = (s.rails.get r).faultKind ∧
          ((u.rails.get r).state = .fault ↔ out.released = false)) ∧
        (out.moved = true →
          (s.rails.get r).state = .ramping ∨ (s.rails.get r).state = .good ∨ (s.rails.get r).state = .draining →
          (u.rails.get r).state = .falling ∧
          (u.rails.get r).discharge = some { start := u.now, length := c.dischargeTimeout } ∧
          (zonesFirst → (u.rails.get r).fallCause = .trip)) ∧
        (out.moved = true → zonesFirst → (s.rails.get r).state = .waiting ∨ (s.rails.get r).state = .settling →
          (u.rails.get r).state = .off))

/-! ### Zones -/

/-- What a frame does to a zone: in ACTIVE and MUTED row by row of Table 23; in LISTEN by adoption, generation and condition
as the frame has them, the record from the part, kept only at an unchanged generation and condition, FAULT rails
released only by a newer generation. The part is the record of the frame's trip part in the zone that a part kept by the
range check names, and none in every other zone. All zones change together; then FAULT rails of the zones that release are OFF and
the rails of the zones that move are taken down with cause TRIP, in one step, before any other move.
The model's own choice in it: assumption 5. -/
def Obligations.ZoneBytesAreJudgedAsTabled : Prop :=
  (∀ (e : Zone) (g : Byte) (part : Option TripRecord),
     let d := (g - e.generation).toNat
     (1 ≤ d ∧ d ≤ 127 →
       compareZone e g false part =
         { entry := { e with generation := g, condition := .normal, record := none }, released := true, moved := false,
           trippedFlag := false, clearedFlag := true } ∧
       compareZone e g true part =
         { entry := { e with generation := g, condition := .tripped, record := part }, released := true, moved := true,
           trippedFlag := true, clearedFlag := false }) ∧
     (d = 0 → compareZone e g false part = ZoneOutcome.unchanged e ∧
       (e.condition = .normal → compareZone e g true part =
         { entry := { e with condition := .tripped, record := part }, released := false, moved := true,
           trippedFlag := true, clearedFlag := false }) ∧
       (e.condition = .tripped → part = none → compareZone e g true part = ZoneOutcome.unchanged e) ∧
       (∀ t, e.condition = .tripped → part = some t → compareZone e g true part =
         ZoneOutcome.unchanged { e with record := some (
           match e.record with | none => t | some h => if t.earlier h then t else h) })) ∧
     (128 ≤ d → ∀ tripped, compareZone e g tripped part = ZoneOutcome.unchanged e)) ∧
  (∀ (e : Zone) (g : Byte) (part : Option TripRecord),
     let newer := decide (1 ≤ (g - e.generation).toNat ∧ (g - e.generation).toNat ≤ 127)
     adoptZone e g false part =
       { entry := { e with generation := g, condition := .normal, record := none }, released := newer, moved := false
         trippedFlag := false, clearedFlag := decide (e.condition = .tripped) || newer } ∧
     ∃ rec, adoptZone e g true part =
         { entry := { e with generation := g, condition := .tripped, record := rec }, released := newer, moved := true
           trippedFlag := decide (e.condition = .normal), clearedFlag := false } ∧
       (∀ t, part = some t → rec = some t) ∧
       (part = none → g = e.generation → e.condition = .tripped → rec = e.record) ∧
       (part = none → ¬ (g = e.generation ∧ e.condition = .tripped) → rec = none)) ∧
  (∀ (s : State) (f : Frame) (z : ZoneIx),
     (∀ kept : Option (ZoneIx × TripRecord),
       (kept = none → partFor kept z = none) ∧
       (∀ y t, kept = some (y, t) → (y = z → partFor kept z = some t) ∧ (y ≠ z → partFor kept z = none))) ∧
     s.zoneOutcome f z =
       (if s.line.phase = .listen then adoptZone else compareZone) (s.zones.entries.get z) (f.generations.get z)
         (f.tripMask.getLsbD z.toNat)
         (match f.part with
          | some p => partFor (p.accepted s.shelfSize f.tripMask) z
          | none => none)) ∧
  (∀ (o : Occasion) (s : State) (f : Frame),
     let out := s.zoneOutcome f
     let moved (r : RailIx) : Rail :=
       match s.fittedConfig r with
       | some c =>
         let x := if (out c.zone).released = true ∧ (s.rails.get r).state = .fault then { s.rails.get r with
           state := .off, settle := none, ramp := none, drain := none, discharge := none, since := s.now }
           else s.rails.get r
         if (out c.zone).moved then x.takenDown c .trip s.now else x
       | none => s.rails.get r
     State.SettlesTo o { s with
       zones := { s.zones with entries := Eight.of (fun z => (out z).entry) }
       rails := Four.of moved
       monitor := { s.monitor with rails := Four.of (fun r =>
         if (moved r).state = (s.rails.get r).state then s.monitor.rails.get r
         else { s.monitor.rails.get r with outside := 0, deglitch := none }) }
       port := { s.port with flags := s.port.flags |||
         (if ZoneIx.all.any (fun z => (out z).trippedFlag) then 0x002 else 0) |||
         (if ZoneIx.all.any (fun z => (out z).clearedFlag) then 0x004 else 0) } } (s.takeZoneBytes o f))

/-- A clear and a trip of one zone in flight together end the same way in either order: the zone at the new generation,
NORMAL, without a record. -/
def Obligations.ClearAndTripConverge : Prop :=
  ∀ (e : Zone) (part : Option TripRecord) (none_ : Option TripRecord), e.condition = .normal → e.record = none →
    let take (e : Zone) (g : Byte) (tripped : Bool) (p : Option TripRecord) : Zone := (compareZone e g tripped p).entry
    let done := { e with generation := e.generation + 1 }
    take (take e e.generation true part) (e.generation + 1) false none_ = done ∧
    take (take e (e.generation + 1) false none_) e.generation true part = done

/-- A record is earlier by shelf time, then station, then rail; two records with the same fields of these are neither, and
cycles 32,768 apart are not ordered; no two records are each earlier than the other. Where one record is earlier than
every other, merging them in any order leaves that one; of three in a ring the order of arrival decides. -/
def Obligations.TripRecordsAreOrderedAndMerged : Prop :=
  (∀ a b : TripRecord,
     (a.earlier b = true ↔
       (1 ≤ (b.cycle - a.cycle).toNat ∧ (b.cycle - a.cycle).toNat ≤ 32767) ∨
       (a.cycle = b.cycle ∧ a.slot < b.slot) ∨
       (a.cycle = b.cycle ∧ a.slot = b.slot ∧ a.offset < b.offset) ∨
       (a.cycle = b.cycle ∧ a.slot = b.slot ∧ a.offset = b.offset ∧ a.station < b.station) ∨
       (a.cycle = b.cycle ∧ a.slot = b.slot ∧ a.offset = b.offset ∧ a.station = b.station ∧
         a.rail.toNat < b.rail.toNat)) ∧
     (a.cycle = b.cycle → a.slot = b.slot → a.offset = b.offset → a.station = b.station → a.rail = b.rail →
       a.earlier b = false ∧ b.earlier a = false) ∧
     ((b.cycle - a.cycle).toNat = 32768 → a.earlier b = false ∧ b.earlier a = false) ∧
     ¬ (a.earlier b = true ∧ b.earlier a = true)) ∧
  (∀ (l : List TripRecord) (x : TripRecord), x ∈ l → (∀ y ∈ l, y ≠ x → x.earlier y = true) →
     l.foldl (fun held t => some (mergeRecord held t)) none = some x) ∧
  (∃ a b c : TripRecord, a.earlier b = true ∧ b.earlier c = true ∧ c.earlier a = true ∧
     [a, b, c].foldl (fun held t => some (mergeRecord held t)) none ≠
       [b, c, a].foldl (fun held t => some (mergeRecord held t)) none)

/-! ### Formats -/

/-- The CRC of the nine bytes 31h to 39h is 29B1h, and one byte changed anywhere changes the CRC. -/
def Obligations.CrcCatchesChangedByte : Prop :=
  crc [0x31, 0x32, 0x33, 0x34, 0x35, 0x36, 0x37, 0x38, 0x39] = 0x29B1 ∧
  ∀ (before after : List Byte) (a b : Byte), a ≠ b → crc (before ++ a :: after) ≠ crc (before ++ b :: after)

/-- A frame that one station builds is taken as valid, every field as it was sent, by any station of its shelf with
another number: for every frame with at most 8 holds, whatever its other fields. Its bytes are those of Tables 59 to 62,
high byte first. -/
def Obligations.FrameRoundTrip : Prop :=
  ∀ (f : Frame) (img : Image) (own : Nat),
    f.holds.length ≤ 8 → f.signature = img.signature → f.station.toNat < img.shelfSize → f.station.toNat ≠ own →
    f.toBytes.length = 21 + f.holds.length + (if f.part.isSome then 8 else 0) ∧
    expectedLength f.toBytes = some f.toBytes.length ∧
    (let at_ (i : Nat) : Byte := f.toBytes.getD i 0
     let codes : Nat :=
       f.rails.r0.code + 8 * f.rails.r1.code + 64 * f.rails.r2.code + 512 * f.rails.r3.code
     at_ 0 = 0x96 ∧ at_ 1 = f.station ∧ (at_ 2).toNat =
       (if f.leaving then 32 else 0) + (if f.part.isSome then 16 else 0) + f.holds.length ∧
     at_ 3 ++ at_ 4 = f.signature ∧ at_ 5 ++ at_ 6 = f.cycle ∧ (at_ 7).toNat = codes / 256 ∧
     (at_ 8).toNat = codes % 256 ∧ at_ 9 = f.demand ∧ (∀ z : ZoneIx, at_ (10 + z.toNat) = f.generations.get z) ∧
     at_ 18 = f.tripMask ∧ (∀ i, i < f.holds.length → at_ (19 + i) = f.holds.getD i 0) ∧
     (∀ p, f.part = some p →
       let b (i : Nat) : Byte := at_ (19 + f.holds.length + i)
       b 0 = p.zone ∧ b 1 = p.station ∧ (b 2).toNat = 16 * p.kindCode.toNat + p.rail.toNat ∧ b 3 ++ b 4 = p.cycle ∧
       b 5 = p.slot ∧ b 6 ++ b 7 = p.offset) ∧
     (let n := f.toBytes.length
      at_ (n - 2) ++ at_ (n - 1) = crc ((f.toBytes.take (n - 2)).drop 1))) ∧
    judgeFrame img own (f.toBytes.map (fun b => { data := b, stopGood := true })) = .valid f

/-- The bits of a frame on the line, 1 µs each, are cut back into its bytes with sound stop bits, whatever the bytes.
The model's own choice in it: assumption 11, for cutBytes. -/
def Obligations.LineRoundTrip : Prop :=
  ∀ bs : List Byte, cutBytes (lineLevels (lineBits bs)) = bs.map (fun b => { data := b, stopGood := true })

/-- The eight checks of a frame are made in their order; the first that fails gives the error kind, and a frame that
passes all is valid. -/
def Obligations.FrameChecksInOrder : Prop :=
  ∀ (img : Image) (own : Nat) (rx : List RxByte),
    let bs := rx.map (·.data)
    let at_ (i : Nat) : Byte := bs.getD i 0
    let holds := (at_ 2).toNat % 16
    let n := 21 + holds + (if (at_ 2).getLsbD 4 then 8 else 0)
    let bad : List (Prop × ErrorKind) :=
      [(at_ 0 ≠ 0x96, .badStart),
       (∃ b ∈ rx, b.stopGood = false, .framing),
       (bs.length < 3 ∨ (holds ≤ 8 ∧ bs.length < n), .truncated),
       (8 < holds, .badLength),
       (crc ((bs.take (n - 2)).drop 1) ≠ at_ (n - 2) ++ at_ (n - 1), .badCheck),
       (at_ 3 ++ at_ 4 ≠ img.signature, .foreign),
       (img.shelfSize ≤ (at_ 1).toNat, .badStation),
       ((at_ 1).toNat = own, .duplicate)]
    (∀ passed p rest, bad = passed ++ p :: rest → (∀ q ∈ passed, ¬ q.1) → p.1 → judgeFrame img own rx = .refused p.2) ∧
    ((∀ p ∈ bad, ¬ p.1) → judgeFrame img own rx = .valid (Frame.ofBytes (bs.take n)))

/-- A trip part is set aside when its zone, origin station, slot or offset is out of range, its fault kind is none of the
five, or the trip mask does not give its zone as TRIPPED; otherwise it is kept with its zone and its six fields. -/
def Obligations.TripPartRangeCheck : Prop :=
  ∀ (p : TripPart) (n : Nat) (mask : Byte),
    let sound := p.zone.toNat ≤ 7 ∧ p.station.toNat < n ∧ p.slot.toNat < n ∧ p.offset.toNat ≤ 449 ∧
      1 ≤ p.kindCode.toNat ∧ p.kindCode.toNat ≤ 5 ∧ mask.getLsbD p.zone.toNat = true
    (¬ sound → p.accepted n mask = none) ∧
    (sound → ∃ z t, p.accepted n mask = some (z, t) ∧ z.toNat = p.zone.toNat ∧ t.station = p.station.toNat ∧
      t.rail = p.rail ∧ t.kind.code = p.kindCode.toNat ∧ t.cycle = p.cycle ∧ t.slot = p.slot.toNat ∧
      t.offset = p.offset.toNat)

/-! ### Invariants: each is kept by every step, from every state that has it -/

/-- After every step no rail has a move left: every consequence of an event is taken within it (R5, R7, R32).
The model's own choice in it: assumption 5. -/
def Obligations.StepLeavesRailsAtRest : Prop :=
  ∀ s t : State, s.atRest → step s = .next t → t.atRest

/-- Each timer runs in its own rail state only, and nothing is counted where nothing is to be counted. A running timer
started when its state was entered, with the length its configuration gives, and a deglitch timer at a sample instant. -/
def Obligations.StepKeepsTimersFit : Prop :=
  (∀ s t : State, s.timersFit → step s = .next t → t.timersFit) ∧
  (∀ s t : State, s.sound ∧ s.timersFit ∧ s.timersAgree → step s = .next t → t.timersAgree)

/-- The queue never holds more than 16 records, all widths fit, and only full DRAIN records are continued. Every record a
step adds is of a fitted rail and within the bound of its kind: RAMP at most the ramp timeout, DISCHARGE at most the
discharge timeout, DRAIN_FORCED equal to the drain timeout, DROPOUT even and at most the PG deglitch.
The model's own choice in it: assumption 2. -/
def Obligations.StepKeepsQueueSound : Prop :=
  (∀ s t : State, s.queueSound → step s = .next t → t.queueSound) ∧
  (∀ s t : State, s.sound ∧ s.timersFit ∧ s.timersAgree → step s = .next t →
    ∃ (n : Nat) (l : List TimingRecord), t.records.records = s.records.records.drop n ++ l ∧
      ∀ x ∈ l, ∃ c, s.fittedConfig x.rail = some c ∧ x.widthFits c)

/-- A zone holds a trip record only while it is TRIPPED; the counts of the line status record and the misses of the peer
entries keep their ranges. -/
def Obligations.StepKeepsRecordsAndCountsInRange : Prop :=
  (∀ s t : State, s.zonesSound → step s = .next t → t.zonesSound) ∧
  (∀ s t : State, s.countsSound ∧ s.missesSound → step s = .next t → t.countsSound ∧ t.missesSound)

/-- Own demand, the shelf demand of every zone, the remote prerequisite conditions and the peers' part of held status are
always what the pins, the port and the peer table give. The peers hold own rail r exactly when the hold list of some
PRESENT entry other than the own one has a byte with the own station number and r in it; a remote prerequisite is up
exactly when a PRESENT entry reports it GOOD or DRAINING. -/
def Obligations.StepKeepsViewFresh : Prop :=
  (∀ (s : State) (r : RailIx), s.peersHold r = true ↔ ∃ (n : Nat) (p : Peer) (b : Byte),
    s.peers[n]? = some p ∧ n ≠ s.own ∧ p.presence = .present ∧ b ∈ p.holds ∧
      b.toNat / 4 % 32 = s.own ∧ b.toNat % 4 = r.toNat) ∧
  (∀ (s : State) (c : RailConfig), s.remoteAll c RailState.up = true ↔
    ∀ p ∈ c.prerequisites, p.station ≠ s.own → ∃ e, s.peers[p.station]? = some e ∧ e.presence = .present ∧
      (e.rails.get p.rail = .good ∨ e.rails.get p.rail = .draining)) ∧
  ∀ s t : State, s.viewFresh → step s = .next t → t.viewFresh

/-- The configuration, the line phase, the slot timer, the receiver and the peer table always fit one another, and no rail
of a TRIPPED zone, or of a station with a restart pending, is starting or up. -/
def Obligations.StepKeepsSound : Prop :=
  ∀ s t : State, s.sound → step s = .next t → t.sound

/-! ### The moves of Table 10 -/

/-- Row by row of Table 10, what a rail does about its conditions as they stand, and that it does nothing where no row
applies. OFF, WAITING and SETTLING follow the start gate; WAITING goes on with every prerequisite GOOD in view, on entry
from OFF at once, before any other rail moves, and SETTLING goes back without; a FOLLOW rail that is up falls with PREREQ_LOST; GOOD drains when demand goes and, not held,
falls with a DRAIN record of width 0; DRAINING falls with its DRAIN record when not held, and is GOOD again when demand
returns. Where two rows apply to one rail, the occasion's order of judgements decides. The enable of a rail is asserted
exactly in RAMPING, GOOD and DRAINING, a rail not fitted showing OFF.
The model's own choices in it: assumptions 4 and 5. -/
def Obligations.RailsMoveAsTabled : Prop :=
  (∀ (s : State) (r : RailIx),
    (s.enable r = true ↔ s.shownState r = .ramping ∨ s.shownState r = .good ∨ s.shownState r = .draining) ∧
    (s.fittedConfig r = none → s.shownState r = .off) ∧
    (∀ c, s.fittedConfig r = some c → s.shownState r = (s.rails.get r).state)) ∧
  ∀ (o : Occasion) (s : State) (r : RailIx),
    (s.fittedConfig r = none → s.react o r = none) ∧
    ∀ c : RailConfig, s.fittedConfig r = some c →
      let x : Rail :=
        { s.rails.get r with settle := none, ramp := none, drain := none, discharge := none, since := s.now }
      let put (u : State) (y : Rail) : State := { u with
        rails := s.rails.set r y
        monitor := { s.monitor with
          rails := s.monitor.rails.set r { s.monitor.rails.get r with outside := 0, deglitch := none } } }
      let off : Option State := some (put s { x with state := .off })
      let fall (u : State) (cause : FallCause) (from_ : Nat) : Option State := some (put u { x with
        state := .falling, fallCause := cause, discharge := some { start := s.now, length := c.dischargeTimeout }
        drainFrom := from_ })
      let start : Option State := some (put s (
        if c.settleDelay = 0 then { x with
          state := .ramping, ramp := some { start := s.now, length := c.rampTimeout } }
        else { x with state := .settling, settle := some { start := s.now, length := c.settleDelay } }))
      let drain (width : Nat) : TimingRecord :=
        { rail := r, kind := .drain, detail := .none, width := width, continued := false, cycle := s.line.cycle }
      let gate := s.line.phase = .active ∧ s.startup.restartPending = false ∧
        (s.zones.entries.get c.zone).demanded = true ∧ (s.zones.entries.get c.zone).condition = .normal
      let ownAre (ok : RailState → Prop) : Prop := ∀ p ∈ c.prerequisites, p.station = s.own → ok (s.shownState p.rail)
      let good := (s.rails.get r).remoteGood = true ∧ ownAre (· = .good)
      let up := (s.rails.get r).remoteUp = true ∧ ownAre (fun st => st = .good ∨ st = .draining)
      let inView :=
        (∀ p ∈ c.prerequisites, p.station ≠ s.own →
          ∃ e, s.peers[p.station]? = some e ∧ e.presence = .present ∧ e.rails.get p.rail = .good) ∧
        (s.zones.ownDemand.getLsbD c.zone.toNat = true ∨
          ∃ n e, s.peers[n]? = some e ∧ n ≠ s.own ∧ e.presence = .present ∧ e.demand.getLsbD c.zone.toNat = true)
      let held := (s.rails.get r).peerHeld = true ∨ ∃ q d, s.fittedConfig q = some d ∧
        (s.rails.get q).state ∈ [RailState.settling, .ramping, .good, .draining, .falling] ∧
        (⟨s.own, r⟩ : Ref) ∈ d.prerequisites
      let lost := c.policy = .follow ∧ ¬ up
      let first (applies : View → Prop) (v : View) : Prop :=
        applies v ∧ ∃ l₁ l₂, viewOrder o = l₁ ++ v :: l₂ ∧ ∀ w ∈ l₁, ¬ applies w
      match (s.rails.get r).state with
      | .off =>
        (¬ gate → s.react o r = none) ∧
        (gate → good ∧ inView → s.react o r = start) ∧
        (gate → ¬ (good ∧ inView) → s.react o r = some (put s { x with state := .waiting }))
      | .waiting =>
        (¬ gate → s.react o r = off) ∧
        (gate → good ∧ inView → s.react o r = start) ∧
        (gate → ¬ (good ∧ inView) → s.react o r = none)
      | .settling =>
        (¬ gate → s.react o r = off) ∧
        (gate → ¬ good → s.react o r = some (put s { x with state := .waiting })) ∧
        (gate → good → s.react o r = none)
      | .ramping =>
        (lost → s.react o r = fall s .prereqLost (s.rails.get r).drainFrom) ∧ (¬ lost → s.react o r = none)
      | .good =>
        let applies : View → Prop := fun v =>
          match v with
          | .prerequisites => lost
          | .holds => False
          | .demand => (s.zones.entries.get c.zone).demanded = false
        (first applies .prerequisites → s.react o r = fall s .prereqLost (s.rails.get r).drainFrom) ∧
        (first applies .demand → held → s.react o r = some (put s { x with
          state := .draining, drainFrom := s.now
          drain := if c.drainTimeout = 0 then none else some { start := s.now, length := c.drainTimeout } })) ∧
        (first applies .demand → ¬ held → s.react o r = fall (s.queueRecord (drain 0)) .demand s.now) ∧
        ((∀ v, ¬ applies v) → s.react o r = none)
      | .draining =>
        let applies : View → Prop := fun v =>
          match v with
          | .prerequisites => lost
          | .holds => ¬ held
          | .demand =>
            (s.zones.entries.get c.zone).demanded = true ∧ (s.zones.entries.get c.zone).condition = .normal
        (first applies .prerequisites → s.react o r = fall s .prereqLost (s.rails.get r).drainFrom) ∧
        (first applies .holds → s.react o r =
          fall (s.queueRecord (drain (min 65535 ((s.now - (s.rails.get r).drainFrom) / 1600)))) .demand
            (s.rails.get r).drainFrom) ∧
        (first applies .demand → s.react o r = some (put s { x with state := .good })) ∧
        ((∀ v, ¬ applies v) → s.react o r = none)
      | .falling => s.react o r = none
      | .fault => s.react o r = none
end

