-- ==== Sys2Proof/Laws/State.lean ====
section
/-! SUPPORT. Laws/State.lean: reading back a rail, a zone or a field of the state after an update. -/

namespace Sys2Proof

/-! ### Rails and zones -/

@[simp] theorem Four.get_of {α : Type} (g : RailIx → α) (r : RailIx) : (Four.of g).get r = g r := by cases r <;> rfl

@[simp] theorem Eight.get_of {α : Type} (g : ZoneIx → α) (z : ZoneIx) : (Eight.of g).get z = g z := by cases z <;> rfl

@[simp] theorem Four.get_set_same {α : Type} (f : Four α) (r : RailIx) (a : α) : (f.set r a).get r = a := by
  cases r <;> rfl

theorem Four.get_set_other {α : Type} (f : Four α) {r q : RailIx} (a : α) (h : q ≠ r) :
    (f.set r a).get q = f.get q := by
  cases r <;> cases q <;> first | rfl | exact absurd rfl h

theorem Four.get_set {α : Type} (f : Four α) (r q : RailIx) (a : α) :
    (f.set r a).get q = if q = r then a else f.get q := by
  cases r <;> cases q <;> rfl

@[simp] theorem Four.set_set {α : Type} (f : Four α) (r : RailIx) (a b : α) : (f.set r a).set r b = f.set r b := by
  cases r <;> rfl

@[simp] theorem Four.set_get {α : Type} (f : Four α) (r : RailIx) : f.set r (f.get r) = f := by cases r <;> rfl

theorem Four.ext_get {α : Type} {f g : Four α} (h : ∀ r, f.get r = g.get r) : f = g := by
  have h0 := h .r0
  have h1 := h .r1
  have h2 := h .r2
  have h3 := h .r3
  cases f
  cases g
  simp_all [Four.get]

@[simp] theorem Eight.get_set_same {α : Type} (f : Eight α) (z : ZoneIx) (a : α) : (f.set z a).get z = a := by
  cases z <;> rfl

theorem Eight.get_set_other {α : Type} (f : Eight α) {z y : ZoneIx} (a : α) (h : y ≠ z) :
    (f.set z a).get y = f.get y := by
  cases z <;> cases y <;> first | rfl | exact absurd rfl h

theorem Eight.get_set {α : Type} (f : Eight α) (z y : ZoneIx) (a : α) :
    (f.set z a).get y = if y = z then a else f.get y := by
  cases z <;> cases y <;> rfl

theorem Eight.ext_get {α : Type} {f g : Eight α} (h : ∀ z, f.get z = g.get z) : f = g := by
  have h0 := h .z0
  have h1 := h .z1
  have h2 := h .z2
  have h3 := h .z3
  have h4 := h .z4
  have h5 := h .z5
  have h6 := h .z6
  have h7 := h .z7
  cases f
  cases g
  simp_all [Eight.get]

theorem RailIx.mem_all (r : RailIx) : r ∈ RailIx.all := by cases r <;> decide

theorem ZoneIx.mem_all (z : ZoneIx) : z ∈ ZoneIx.all := by cases z <;> decide

end Sys2Proof

namespace Sys2Proof.Machine
open Sys2Proof

variable (s : State)

/-! ### `State.after` -/

@[simp] theorem State.after_pending (o : Occasion) : (s.after o).pending = s.pending := rfl

@[simp] theorem State.after_now (o : Occasion) : (s.after o).now = s.now + o.wait := rfl

@[simp] theorem State.after_startup (o : Occasion) : (s.after o).startup = s.startup := rfl

@[simp] theorem State.after_rails (o : Occasion) : (s.after o).rails = s.rails := rfl

@[simp] theorem State.after_monitor (o : Occasion) : (s.after o).monitor = s.monitor := rfl

@[simp] theorem State.after_zones (o : Occasion) : (s.after o).zones = s.zones := rfl

@[simp] theorem State.after_peers (o : Occasion) : (s.after o).peers = s.peers := rfl

@[simp] theorem State.after_line (o : Occasion) : (s.after o).line = s.line := rfl

@[simp] theorem State.after_receiver (o : Occasion) : (s.after o).receiver = s.receiver := rfl

@[simp] theorem State.after_records (o : Occasion) : (s.after o).records = s.records := rfl

@[simp] theorem State.after_port (o : Occasion) : (s.after o).port = s.port := rfl

/-! ### `State.notBefore` -/

@[simp] theorem State.notBefore_pending (t : Nat) : (s.notBefore t).pending = s.pending := rfl

@[simp] theorem State.notBefore_now (t : Nat) : (s.notBefore t).now = max s.now t := rfl

@[simp] theorem State.notBefore_startup (t : Nat) : (s.notBefore t).startup = s.startup := rfl

@[simp] theorem State.notBefore_rails (t : Nat) : (s.notBefore t).rails = s.rails := rfl

@[simp] theorem State.notBefore_monitor (t : Nat) : (s.notBefore t).monitor = s.monitor := rfl

@[simp] theorem State.notBefore_zones (t : Nat) : (s.notBefore t).zones = s.zones := rfl

@[simp] theorem State.notBefore_peers (t : Nat) : (s.notBefore t).peers = s.peers := rfl

@[simp] theorem State.notBefore_line (t : Nat) : (s.notBefore t).line = s.line := rfl

@[simp] theorem State.notBefore_receiver (t : Nat) : (s.notBefore t).receiver = s.receiver := rfl

@[simp] theorem State.notBefore_records (t : Nat) : (s.notBefore t).records = s.records := rfl

@[simp] theorem State.notBefore_port (t : Nat) : (s.notBefore t).port = s.port := rfl

/-! ### `State.setRail` -/

@[simp] theorem State.setRail_pending (r : RailIx) (x : Rail) : (s.setRail r x).pending = s.pending := rfl

@[simp] theorem State.setRail_now (r : RailIx) (x : Rail) : (s.setRail r x).now = s.now := rfl

@[simp] theorem State.setRail_startup (r : RailIx) (x : Rail) : (s.setRail r x).startup = s.startup := rfl

@[simp] theorem State.setRail_rails (r : RailIx) (x : Rail) : (s.setRail r x).rails = s.rails.set r x := rfl

@[simp] theorem State.setRail_monitor (r : RailIx) (x : Rail) : (s.setRail r x).monitor = s.monitor := rfl

@[simp] theorem State.setRail_zones (r : RailIx) (x : Rail) : (s.setRail r x).zones = s.zones := rfl

@[simp] theorem State.setRail_peers (r : RailIx) (x : Rail) : (s.setRail r x).peers = s.peers := rfl

@[simp] theorem State.setRail_line (r : RailIx) (x : Rail) : (s.setRail r x).line = s.line := rfl

@[simp] theorem State.setRail_receiver (r : RailIx) (x : Rail) : (s.setRail r x).receiver = s.receiver := rfl

@[simp] theorem State.setRail_records (r : RailIx) (x : Rail) : (s.setRail r x).records = s.records := rfl

@[simp] theorem State.setRail_port (r : RailIx) (x : Rail) : (s.setRail r x).port = s.port := rfl

/-! ### `State.setMonitor` -/

@[simp] theorem State.setMonitor_pending (r : RailIx) (x : Monitor) : (s.setMonitor r x).pending = s.pending := rfl

@[simp] theorem State.setMonitor_now (r : RailIx) (x : Monitor) : (s.setMonitor r x).now = s.now := rfl

@[simp] theorem State.setMonitor_startup (r : RailIx) (x : Monitor) : (s.setMonitor r x).startup = s.startup := rfl

@[simp] theorem State.setMonitor_rails (r : RailIx) (x : Monitor) : (s.setMonitor r x).rails = s.rails := rfl

@[simp] theorem State.setMonitor_monitor (r : RailIx) (x : Monitor) :
    (s.setMonitor r x).monitor = { s.monitor with rails := s.monitor.rails.set r x } := rfl

@[simp] theorem State.setMonitor_zones (r : RailIx) (x : Monitor) : (s.setMonitor r x).zones = s.zones := rfl

@[simp] theorem State.setMonitor_peers (r : RailIx) (x : Monitor) : (s.setMonitor r x).peers = s.peers := rfl

@[simp] theorem State.setMonitor_line (r : RailIx) (x : Monitor) : (s.setMonitor r x).line = s.line := rfl

@[simp] theorem State.setMonitor_receiver (r : RailIx) (x : Monitor) : (s.setMonitor r x).receiver = s.receiver := rfl

@[simp] theorem State.setMonitor_records (r : RailIx) (x : Monitor) : (s.setMonitor r x).records = s.records := rfl

@[simp] theorem State.setMonitor_port (r : RailIx) (x : Monitor) : (s.setMonitor r x).port = s.port := rfl

/-! ### `State.setZone` -/

@[simp] theorem State.setZone_pending (z : ZoneIx) (x : Zone) : (s.setZone z x).pending = s.pending := rfl

@[simp] theorem State.setZone_now (z : ZoneIx) (x : Zone) : (s.setZone z x).now = s.now := rfl

@[simp] theorem State.setZone_startup (z : ZoneIx) (x : Zone) : (s.setZone z x).startup = s.startup := rfl

@[simp] theorem State.setZone_rails (z : ZoneIx) (x : Zone) : (s.setZone z x).rails = s.rails := rfl

@[simp] theorem State.setZone_monitor (z : ZoneIx) (x : Zone) : (s.setZone z x).monitor = s.monitor := rfl

@[simp] theorem State.setZone_zones (z : ZoneIx) (x : Zone) :
    (s.setZone z x).zones = { s.zones with entries := s.zones.entries.set z x } := rfl

@[simp] theorem State.setZone_peers (z : ZoneIx) (x : Zone) : (s.setZone z x).peers = s.peers := rfl

@[simp] theorem State.setZone_line (z : ZoneIx) (x : Zone) : (s.setZone z x).line = s.line := rfl

@[simp] theorem State.setZone_receiver (z : ZoneIx) (x : Zone) : (s.setZone z x).receiver = s.receiver := rfl

@[simp] theorem State.setZone_records (z : ZoneIx) (x : Zone) : (s.setZone z x).records = s.records := rfl

@[simp] theorem State.setZone_port (z : ZoneIx) (x : Zone) : (s.setZone z x).port = s.port := rfl

/-! ### `State.setFlag` -/

@[simp] theorem State.setFlag_pending (f : AlertFlag) : (s.setFlag f).pending = s.pending := rfl

@[simp] theorem State.setFlag_now (f : AlertFlag) : (s.setFlag f).now = s.now := rfl

@[simp] theorem State.setFlag_startup (f : AlertFlag) : (s.setFlag f).startup = s.startup := rfl

@[simp] theorem State.setFlag_rails (f : AlertFlag) : (s.setFlag f).rails = s.rails := rfl

@[simp] theorem State.setFlag_monitor (f : AlertFlag) : (s.setFlag f).monitor = s.monitor := rfl

@[simp] theorem State.setFlag_zones (f : AlertFlag) : (s.setFlag f).zones = s.zones := rfl

@[simp] theorem State.setFlag_peers (f : AlertFlag) : (s.setFlag f).peers = s.peers := rfl

@[simp] theorem State.setFlag_line (f : AlertFlag) : (s.setFlag f).line = s.line := rfl

@[simp] theorem State.setFlag_receiver (f : AlertFlag) : (s.setFlag f).receiver = s.receiver := rfl

@[simp] theorem State.setFlag_records (f : AlertFlag) : (s.setFlag f).records = s.records := rfl

@[simp] theorem State.setFlag_port (f : AlertFlag) :
    (s.setFlag f).port = { s.port with flags := s.port.flags ||| f.bit } := rfl

/-! ### `State.updatePeer` -/

@[simp] theorem State.updatePeer_pending (n : Nat) (g : Peer → Peer) : (s.updatePeer n g).pending = s.pending := rfl

@[simp] theorem State.updatePeer_now (n : Nat) (g : Peer → Peer) : (s.updatePeer n g).now = s.now := rfl

@[simp] theorem State.updatePeer_startup (n : Nat) (g : Peer → Peer) : (s.updatePeer n g).startup = s.startup := rfl

@[simp] theorem State.updatePeer_rails (n : Nat) (g : Peer → Peer) : (s.updatePeer n g).rails = s.rails := rfl

@[simp] theorem State.updatePeer_monitor (n : Nat) (g : Peer → Peer) : (s.updatePeer n g).monitor = s.monitor := rfl

@[simp] theorem State.updatePeer_zones (n : Nat) (g : Peer → Peer) : (s.updatePeer n g).zones = s.zones := rfl

@[simp] theorem State.updatePeer_peers (n : Nat) (g : Peer → Peer) :
    (s.updatePeer n g).peers = s.peers.modify n g := rfl

@[simp] theorem State.updatePeer_line (n : Nat) (g : Peer → Peer) : (s.updatePeer n g).line = s.line := rfl

@[simp] theorem State.updatePeer_receiver (n : Nat) (g : Peer → Peer) :
    (s.updatePeer n g).receiver = s.receiver := rfl

@[simp] theorem State.updatePeer_records (n : Nat) (g : Peer → Peer) : (s.updatePeer n g).records = s.records := rfl

@[simp] theorem State.updatePeer_port (n : Nat) (g : Peer → Peer) : (s.updatePeer n g).port = s.port := rfl

/-! ### `State.workOutDemand` -/

@[simp] theorem State.workOutDemand_pending : (s.workOutDemand).pending = s.pending := rfl

@[simp] theorem State.workOutDemand_now : (s.workOutDemand).now = s.now := rfl

@[simp] theorem State.workOutDemand_startup : (s.workOutDemand).startup = s.startup := rfl

@[simp] theorem State.workOutDemand_rails : (s.workOutDemand).rails = s.rails := rfl

@[simp] theorem State.workOutDemand_monitor : (s.workOutDemand).monitor = s.monitor := rfl

@[simp] theorem State.workOutDemand_zones :
    (s.workOutDemand).zones = { s.zones with ownDemand := s.ownDemandNow } := rfl

@[simp] theorem State.workOutDemand_peers : (s.workOutDemand).peers = s.peers := rfl

@[simp] theorem State.workOutDemand_line : (s.workOutDemand).line = s.line := rfl

@[simp] theorem State.workOutDemand_receiver : (s.workOutDemand).receiver = s.receiver := rfl

@[simp] theorem State.workOutDemand_records : (s.workOutDemand).records = s.records := rfl

@[simp] theorem State.workOutDemand_port : (s.workOutDemand).port = s.port := rfl

/-! ### `State.answer` -/

@[simp] theorem State.answer_pending (r : Result) (p : List Byte) : (s.answer r p).pending = s.pending := rfl

@[simp] theorem State.answer_now (r : Result) (p : List Byte) : (s.answer r p).now = s.now := rfl

@[simp] theorem State.answer_startup (r : Result) (p : List Byte) : (s.answer r p).startup = s.startup := rfl

@[simp] theorem State.answer_rails (r : Result) (p : List Byte) : (s.answer r p).rails = s.rails := rfl

@[simp] theorem State.answer_monitor (r : Result) (p : List Byte) : (s.answer r p).monitor = s.monitor := rfl

@[simp] theorem State.answer_zones (r : Result) (p : List Byte) : (s.answer r p).zones = s.zones := rfl

@[simp] theorem State.answer_peers (r : Result) (p : List Byte) : (s.answer r p).peers = s.peers := rfl

@[simp] theorem State.answer_line (r : Result) (p : List Byte) : (s.answer r p).line = s.line := rfl

@[simp] theorem State.answer_receiver (r : Result) (p : List Byte) : (s.answer r p).receiver = s.receiver := rfl

@[simp] theorem State.answer_records (r : Result) (p : List Byte) : (s.answer r p).records = s.records := rfl

@[simp] theorem State.answer_port (r : Result) (p : List Byte) :
    (s.answer r p).port = { s.port with transaction := .response, response := r.code :: p, lastResult := r } := rfl

/-! ### `State.enter` -/

@[simp] theorem State.enter_pending (r : RailIx) (st : RailState) : (s.enter r st).pending = s.pending := rfl

@[simp] theorem State.enter_now (r : RailIx) (st : RailState) : (s.enter r st).now = s.now := rfl

@[simp] theorem State.enter_startup (r : RailIx) (st : RailState) : (s.enter r st).startup = s.startup := rfl

@[simp] theorem State.enter_rails (r : RailIx) (st : RailState) :
    (s.enter r st).rails = s.rails.set r { s.rails.get r with
      state := st, settle := none, ramp := none, drain := none, discharge := none, since := s.now } := rfl

@[simp] theorem State.enter_monitor (r : RailIx) (st : RailState) :
    (s.enter r st).monitor = { s.monitor with rails := s.monitor.rails.set r { s.monitor.rails.get r with outside := 0, deglitch := none } } := rfl

@[simp] theorem State.enter_zones (r : RailIx) (st : RailState) : (s.enter r st).zones = s.zones := rfl

@[simp] theorem State.enter_peers (r : RailIx) (st : RailState) : (s.enter r st).peers = s.peers := rfl

@[simp] theorem State.enter_line (r : RailIx) (st : RailState) : (s.enter r st).line = s.line := rfl

@[simp] theorem State.enter_receiver (r : RailIx) (st : RailState) : (s.enter r st).receiver = s.receiver := rfl

@[simp] theorem State.enter_records (r : RailIx) (st : RailState) : (s.enter r st).records = s.records := rfl

@[simp] theorem State.enter_port (r : RailIx) (st : RailState) : (s.enter r st).port = s.port := rfl

end Sys2Proof.Machine
end

