-- ==== Sys2Proof/Laws/Ops.lean ====
section
/-! SUPPORT. Laws/Ops.lean: what the shared operations can do: orders, flags, the timing record queue, the loaded
configuration. -/

namespace Sys2Proof.Machine
open Sys2Proof

/-! ### Orders -/

theorem distinctEntries_mem {α : Type} [DecidableEq α] (l : List α) (a : α) : a ∈ distinctEntries l ↔ a ∈ l := by
  induction l with
  | nil => simp [distinctEntries]
  | cons b l ih => by_cases h : a = b <;> simp [distinctEntries, h, ih]

theorem distinctEntries_nodup {α : Type} [DecidableEq α] (l : List α) : (distinctEntries l).Nodup := by
  induction l with
  | nil => simp [distinctEntries]
  | cons b l ih => exact List.nodup_cons.2 ⟨by simp, ih.filter _⟩

/-- Every rail is in every rail order. -/
theorem railOrder_mem (o : Occasion) (r : RailIx) : r ∈ railOrder o := by
  simp [railOrder, distinctEntries_mem, RailIx.mem_all]

theorem railOrder_nodup (o : Occasion) : (railOrder o).Nodup := distinctEntries_nodup _

/-- Every judgement is in every order of judgements. -/
theorem viewOrder_mem (o : Occasion) (v : View) : v ∈ viewOrder o := by
  cases v <;> simp [viewOrder, distinctEntries_mem]

/-- Every block is in every order of blocks. -/
theorem blockOrder_mem (o : Occasion) (b : Block) : b ∈ blockOrder o := by
  cases b <;> simp [blockOrder, distinctEntries_mem]

/-! ### Readings of the state that an update leaves alone -/

theorem State.own_congr {s t : State} (h : t.startup = s.startup) : t.own = s.own := by simp [State.own, h]

theorem State.shelfSize_congr {s t : State} (h : t.startup = s.startup) : t.shelfSize = s.shelfSize := by
  simp [State.shelfSize, h]

theorem State.fittedConfig_congr {s t : State} (h : t.startup = s.startup) (r : RailIx) :
    t.fittedConfig r = s.fittedConfig r := by simp [State.fittedConfig, h]

theorem State.shownState_congr {s t : State} (h : t.startup = s.startup) (r : RailIx)
    (hr : (t.rails.get r).state = (s.rails.get r).state) : t.shownState r = s.shownState r := by
  simp [State.shownState, State.fittedConfig_congr h, hr]

/-- With no configuration loaded no rail is fitted (R2). -/
theorem State.fittedConfig_none {s : State} (h : s.startup.config = none) (r : RailIx) : s.fittedConfig r = none := by
  simp [State.fittedConfig, h]

/-! ### Flags -/

/-- Setting a flag conditionally either sets it or leaves the state. -/
theorem State.setFlagIf_cases (s : State) (b : Bool) (f : AlertFlag) :
    (b = true ∧ s.setFlagIf b f = s.setFlag f) ∨ (b = false ∧ s.setFlagIf b f = s) := by
  cases b <;> simp [State.setFlagIf]

@[simp] theorem State.setFlagIf_true (s : State) (f : AlertFlag) : s.setFlagIf true f = s.setFlag f := rfl

@[simp] theorem State.setFlagIf_false (s : State) (f : AlertFlag) : s.setFlagIf false f = s := rfl

/-- A conditional flag changes the alert flags alone. -/
theorem State.setFlagIf_eq (s : State) (b : Bool) (f : AlertFlag) :
    s.setFlagIf b f = { s with port := { s.port with flags := s.port.flags ||| (if b then f.bit else 0) } } := by
  cases b <;> simp [State.setFlagIf, State.setFlag]

/-- A flag just set is set. -/
theorem State.flagSet_setFlag (s : State) (f : AlertFlag) : (s.setFlag f).flagSet f = true := by
  simp only [State.flagSet, State.setFlag_port]
  cases f <;> simp only [AlertFlag.bit] <;> generalize s.port.flags = w <;> revert w <;> decide

/-! ### The timing record queue (R159 to R161) -/

/-- All that handing a record to the queue does: it changes the queue and the alert flags. -/
theorem State.queueRecord_eq (s : State) (x : TimingRecord) :
    s.queueRecord x =
      { s with
        records := (s.queueRecord x).records
        port := { s.port with flags := (s.queueRecord x).port.flags } } := by
  unfold State.queueRecord
  split
  · cases h : s.records.records.isEmpty <;> simp [State.setFlagIf, State.setFlag]
  · simp [State.setFlag]

theorem State.queueRecord_room (s : State) (x : TimingRecord) (h : s.records.records.length < 16) :
    (s.queueRecord x).records = { s.records with records := s.records.records ++ [x] } ∧
    (s.queueRecord x).port.flags =
      s.port.flags ||| (if s.records.records.isEmpty then AlertFlag.bit .recordsWaiting else 0) := by
  unfold State.queueRecord
  rw [if_pos (by simpa [Config.queueLength] using h)]
  cases s.records.records.isEmpty <;> simp [State.setFlagIf, State.setFlag]

theorem State.queueRecord_full (s : State) (x : TimingRecord) (h : 16 ≤ s.records.records.length) :
    (s.queueRecord x).records = { s.records with discarded := saturate s.records.discarded } ∧
    (s.queueRecord x).port.flags = s.port.flags ||| AlertFlag.bit .recordsOverflow := by
  unfold State.queueRecord
  rw [if_neg (by simpa [Config.queueLength] using h)]
  exact ⟨rfl, rfl⟩

@[simp] theorem State.queueRecord_pending (s : State) (x : TimingRecord) : (s.queueRecord x).pending = s.pending := by
  rw [State.queueRecord_eq]
@[simp] theorem State.queueRecord_now (s : State) (x : TimingRecord) : (s.queueRecord x).now = s.now := by
  rw [State.queueRecord_eq]
@[simp] theorem State.queueRecord_startup (s : State) (x : TimingRecord) : (s.queueRecord x).startup = s.startup := by
  rw [State.queueRecord_eq]
@[simp] theorem State.queueRecord_rails (s : State) (x : TimingRecord) : (s.queueRecord x).rails = s.rails := by
  rw [State.queueRecord_eq]
@[simp] theorem State.queueRecord_monitor (s : State) (x : TimingRecord) : (s.queueRecord x).monitor = s.monitor := by
  rw [State.queueRecord_eq]
@[simp] theorem State.queueRecord_zones (s : State) (x : TimingRecord) : (s.queueRecord x).zones = s.zones := by
  rw [State.queueRecord_eq]
@[simp] theorem State.queueRecord_peers (s : State) (x : TimingRecord) : (s.queueRecord x).peers = s.peers := by
  rw [State.queueRecord_eq]
@[simp] theorem State.queueRecord_line (s : State) (x : TimingRecord) : (s.queueRecord x).line = s.line := by
  rw [State.queueRecord_eq]
@[simp] theorem State.queueRecord_receiver (s : State) (x : TimingRecord) :
    (s.queueRecord x).receiver = s.receiver := by
  rw [State.queueRecord_eq]

end Sys2Proof.Machine
end

