-- ==== Sys2Proof/Laws/Sequencer.lean ====
section
/-! SUPPORT. Laws/Sequencer.lean: what moving rails and settling can do. The consequent events of any change
are moves of rails that were neither FALLING nor FAULT (`State.MovesTo`), and they end at rest
(`State.settle_settlesTo`). -/

namespace Sys2Proof.Machine
open Sys2Proof

/-- `t` differs from `s` by moves of fitted rails that were neither FALLING nor FAULT, the records and flags those moves
made, and nothing else. -/
structure State.MovesTo (s t : State) : Prop where
  pending : t.pending = s.pending
  now : t.now = s.now
  startup : t.startup = s.startup
  zones : t.zones = s.zones
  peers : t.peers = s.peers
  line : t.line = s.line
  receiver : t.receiver = s.receiver
  port : ∃ w : BitVec 9, t.port = { s.port with flags := s.port.flags ||| w }
  nextSample : t.monitor.nextSample = s.monitor.nextSample
  sample : ∀ r, (t.monitor.rails.get r).lastSample = (s.monitor.rails.get r).lastSample ∧
    (t.monitor.rails.get r).pg = (s.monitor.rails.get r).pg
  records : ∃ l, t.records.records = s.records.records ++ l
  kept : ∀ r, (t.rails.get r).remoteGood = (s.rails.get r).remoteGood ∧
    (t.rails.get r).remoteUp = (s.rails.get r).remoteUp ∧
    (t.rails.get r).peerHeld = (s.rails.get r).peerHeld ∧
    (t.rails.get r).faultKind = (s.rails.get r).faultKind
  still : ∀ r, s.fittedConfig r = none ∨ (s.rails.get r).state = .falling ∨ (s.rails.get r).state = .fault →
    t.rails.get r = s.rails.get r ∧ t.monitor.rails.get r = s.monitor.rails.get r

theorem State.MovesTo.refl (s : State) : s.MovesTo s :=
  ⟨rfl, rfl, rfl, rfl, rfl, rfl, rfl, ⟨0, by simp⟩, rfl, fun _ => ⟨rfl, rfl⟩, ⟨[], by simp⟩,
    fun _ => ⟨rfl, rfl, rfl, rfl⟩, fun _ _ => ⟨rfl, rfl⟩⟩

theorem State.MovesTo.fitted {s t : State} (h : s.MovesTo t) (r : RailIx) : t.fittedConfig r = s.fittedConfig r :=
  State.fittedConfig_congr h.startup r

theorem State.MovesTo.trans {s t u : State} (h : s.MovesTo t) (k : t.MovesTo u) : s.MovesTo u where
  pending := k.pending.trans h.pending
  now := k.now.trans h.now
  startup := k.startup.trans h.startup
  zones := k.zones.trans h.zones
  peers := k.peers.trans h.peers
  line := k.line.trans h.line
  receiver := k.receiver.trans h.receiver
  port := by
    obtain ⟨w, hw⟩ := h.port
    obtain ⟨v, hv⟩ := k.port
    exact ⟨w ||| v, by rw [hv, hw, BitVec.or_assoc]⟩
  nextSample := k.nextSample.trans h.nextSample
  sample r := ⟨(k.sample r).1.trans (h.sample r).1, (k.sample r).2.trans (h.sample r).2⟩
  records := by
    obtain ⟨l, hl⟩ := h.records
    obtain ⟨m, hm⟩ := k.records
    exact ⟨l ++ m, by rw [hm, hl, List.append_assoc]⟩
  kept r := by
    obtain ⟨a, b, c, d⟩ := h.kept r
    obtain ⟨a', b', c', d'⟩ := k.kept r
    exact ⟨a'.trans a, b'.trans b, c'.trans c, d'.trans d⟩
  still r hr := by
    obtain ⟨e, f⟩ := h.still r hr
    obtain ⟨e', f'⟩ := k.still r (by rw [h.fitted, e]; exact hr)
    exact ⟨e'.trans e, f'.trans f⟩

/-- Rail `r` may be moved: it is fitted and neither FALLING nor FAULT. -/
def State.movable (s : State) (r : RailIx) : Prop :=
  s.fittedConfig r ≠ none ∧ (s.rails.get r).state ≠ .falling ∧ (s.rails.get r).state ≠ .fault

theorem State.movable_of {s : State} {r : RailIx} {c : RailConfig} (hc : s.fittedConfig r = some c)
    (h₁ : (s.rails.get r).state ≠ .falling) (h₂ : (s.rails.get r).state ≠ .fault) : s.movable r :=
  ⟨by simp [hc], h₁, h₂⟩

/-- Rail `r`'s record and monitor record replaced. -/
def State.putRail (s : State) (r : RailIx) (x : Rail) (m : Monitor) : State := (s.setRail r x).setMonitor r m

@[simp] theorem State.putRail_rails (s : State) (r : RailIx) (x : Rail) (m : Monitor) :
    (s.putRail r x m).rails = s.rails.set r x := rfl

@[simp] theorem State.putRail_monitor (s : State) (r : RailIx) (x : Rail) (m : Monitor) :
    (s.putRail r x m).monitor = { s.monitor with rails := s.monitor.rails.set r m } := rfl

/-- Replacing the records of a movable rail, its conditions, fault kind and sample kept, is a move. -/
theorem State.MovesTo.putRail {s : State} {r : RailIx} {x : Rail} {m : Monitor} (hr : s.movable r)
    (h : x.remoteGood = (s.rails.get r).remoteGood ∧ x.remoteUp = (s.rails.get r).remoteUp ∧
      x.peerHeld = (s.rails.get r).peerHeld ∧ x.faultKind = (s.rails.get r).faultKind)
    (k : m.lastSample = (s.monitor.rails.get r).lastSample ∧ m.pg = (s.monitor.rails.get r).pg) :
    s.MovesTo (s.putRail r x m) where
  pending := rfl
  now := rfl
  startup := rfl
  zones := rfl
  peers := rfl
  line := rfl
  receiver := rfl
  port := ⟨0, by simp [State.putRail]⟩
  nextSample := rfl
  sample q := by by_cases hq : q = r <;> simp [Four.get_set, hq, k]
  records := ⟨[], by simp [State.putRail]⟩
  kept q := by by_cases hq : q = r <;> simp [Four.get_set, hq, h]
  still q hq := by
    have : q ≠ r := by
      rintro rfl
      rcases hq with h' | h' | h'
      · exact hr.1 h'
      · exact hr.2.1 h'
      · exact hr.2.2 h'
    simp [Four.get_set_other _ _ this]

/-- Handing a record to the queue is a move of no rail. -/
theorem State.MovesTo.queueRecord (s : State) (x : TimingRecord) : s.MovesTo (s.queueRecord x) where
  pending := by simp
  now := by simp
  startup := by simp
  zones := by simp
  peers := by simp
  line := by simp
  receiver := by simp
  port := by
    rcases Nat.lt_or_ge s.records.records.length 16 with h | h
    · exact ⟨_, by rw [State.queueRecord_eq, (s.queueRecord_room x h).2]⟩
    · exact ⟨_, by rw [State.queueRecord_eq, (s.queueRecord_full x h).2]⟩
  nextSample := by simp
  sample _ := by simp
  records := by
    rcases Nat.lt_or_ge s.records.records.length 16 with h | h
    · exact ⟨[x], by rw [(s.queueRecord_room x h).1]⟩
    · exact ⟨[], by rw [(s.queueRecord_full x h).1]; simp⟩
  kept _ := by simp
  still _ _ := by simp

/-! ### Entering a state, as one replacement -/

/-- The monitor record of a rail that has just changed state (R55). -/
def Monitor.restarted (m : Monitor) : Monitor := { m with outside := 0, deglitch := none }

/-- The rail record of a rail that has just entered a state at instant `t`: timers idle, everything else kept (R1). -/
def Rail.entered (x : Rail) (st : RailState) (t : Nat) : Rail :=
  { x with state := st, settle := none, ramp := none, drain := none, discharge := none, since := t }

theorem State.enter_eq (s : State) (r : RailIx) (st : RailState) :
    s.enter r st = s.putRail r ((s.rails.get r).entered st s.now) (s.monitor.rails.get r).restarted := rfl

theorem State.enterRamping_eq (s : State) (c : RailConfig) (r : RailIx) :
    s.enterRamping c r =
      s.putRail r
        { (s.rails.get r).entered .ramping s.now with ramp := some { start := s.now, length := c.rampTimeout } }
        (s.monitor.rails.get r).restarted := by
  simp [State.enterRamping, State.enter_eq, State.putRail, State.setRail, State.setMonitor]

theorem State.enterFalling_eq (s : State) (c : RailConfig) (r : RailIx) (cause : FallCause) :
    s.enterFalling c r cause =
      s.putRail r
        { (s.rails.get r).entered .falling s.now with
          fallCause := cause
          discharge := some { start := s.now, length := c.dischargeTimeout } }
        (s.monitor.rails.get r).restarted := by
  simp [State.enterFalling, State.enter_eq, State.putRail, State.setRail, State.setMonitor]

theorem State.enterSettling_eq (s : State) (c : RailConfig) (r : RailIx) :
    s.enterSettling c r =
      if c.settleDelay = 0 then
        s.putRail r
          { (s.rails.get r).entered .ramping s.now with ramp := some { start := s.now, length := c.rampTimeout } }
          (s.monitor.rails.get r).restarted
      else
        s.putRail r
          { (s.rails.get r).entered .settling s.now with settle := some { start := s.now, length := c.settleDelay } }
          (s.monitor.rails.get r).restarted := by
  unfold State.enterSettling
  split <;>
    simp [State.enterRamping_eq, State.enter_eq, State.putRail, State.setRail, State.setMonitor, Rail.entered,
      Monitor.restarted]

/-- A rail that enters WAITING is in WAITING, or where SETTLING takes it. -/
theorem State.enterWaiting_eq (s : State) (c : RailConfig) (r : RailIx) :
    s.enterWaiting c r =
      if (s.enter r .waiting).mayStart c r then s.enterSettling c r else s.enter r .waiting := by
  have : (s.enter r .waiting).enterSettling c r = s.enterSettling c r := by
    rw [State.enterSettling_eq, State.enterSettling_eq]
    simp [State.enter_eq, State.putRail, State.setRail, State.setMonitor, Rail.entered, Monitor.restarted]
  simp only [State.enterWaiting, this]

theorem State.MovesTo.enter {s : State} {r : RailIx} (st : RailState) (hr : s.movable r) : s.MovesTo (s.enter r st) :=
  State.MovesTo.putRail hr ⟨rfl, rfl, rfl, rfl⟩ ⟨rfl, rfl⟩

theorem State.MovesTo.enterFalling {s : State} (c : RailConfig) {r : RailIx} (cause : FallCause) (hr : s.movable r) :
    s.MovesTo (s.enterFalling c r cause) := by
  rw [State.enterFalling_eq]
  exact State.MovesTo.putRail hr ⟨rfl, rfl, rfl, rfl⟩ ⟨rfl, rfl⟩

theorem State.MovesTo.enterRamping {s : State} (c : RailConfig) {r : RailIx} (hr : s.movable r) :
    s.MovesTo (s.enterRamping c r) := by
  rw [State.enterRamping_eq]
  exact State.MovesTo.putRail hr ⟨rfl, rfl, rfl, rfl⟩ ⟨rfl, rfl⟩

theorem State.MovesTo.enterSettling {s : State} (c : RailConfig) {r : RailIx} (hr : s.movable r) :
    s.MovesTo (s.enterSettling c r) := by
  rw [State.enterSettling_eq]
  split <;> exact State.MovesTo.putRail hr ⟨rfl, rfl, rfl, rfl⟩ ⟨rfl, rfl⟩

theorem State.MovesTo.enterWaiting {s : State} (c : RailConfig) {r : RailIx} (hr : s.movable r) :
    s.MovesTo (s.enterWaiting c r) := by
  rw [State.enterWaiting_eq]
  split
  · exact State.MovesTo.enterSettling c hr
  · exact State.MovesTo.enter _ hr

theorem State.movable_queueRecord {s : State} {r : RailIx} (x : TimingRecord) (hr : s.movable r) :
    (s.queueRecord x).movable r := by
  simpa [State.movable, State.fittedConfig_congr (s.queueRecord_startup x)] using hr

theorem State.MovesTo.release {s : State} (c : RailConfig) {r : RailIx} (hr : s.movable r) :
    s.MovesTo (s.release c r) :=
  (State.MovesTo.queueRecord s _).trans (State.MovesTo.enterFalling c .demand (State.movable_queueRecord _ hr))

/-- Rail `r` just entered into DRAINING, before its held status is looked at (R40). -/
def State.draining (s : State) (c : RailConfig) (r : RailIx) : State :=
  s.putRail r
    { (s.rails.get r).entered .draining s.now with
      drain := if c.drainTimeout = 0 then none else some { start := s.now, length := c.drainTimeout }
      drainFrom := s.now }
    (s.monitor.rails.get r).restarted

theorem State.enterDraining_eq (s : State) (c : RailConfig) (r : RailIx) :
    s.enterDraining c r =
      if (s.draining c r).held r then s.draining c r else (s.draining c r).release c r := by
  have : State.setRail (s.enter r .draining) r
      { (s.enter r .draining).rails.get r with
        drain := if c.drainTimeout = 0 then none else some { start := s.now, length := c.drainTimeout }
        drainFrom := s.now } = s.draining c r := by
    simp [State.draining, State.enter_eq, State.putRail, State.setRail, State.setMonitor]
  simp only [State.enterDraining, this]

theorem State.MovesTo.enterDraining {s : State} (c : RailConfig) {r : RailIx} (hr : s.movable r) :
    s.MovesTo (s.enterDraining c r) := by
  have h : s.MovesTo (s.draining c r) := State.MovesTo.putRail hr ⟨rfl, rfl, rfl, rfl⟩ ⟨rfl, rfl⟩
  have hm : (s.draining c r).movable r :=
    ⟨by rw [h.fitted]; exact hr.1, by simp [State.draining, Rail.entered], by simp [State.draining, Rail.entered]⟩
  rw [State.enterDraining_eq]
  split
  · exact h
  · exact h.trans (State.MovesTo.release c hm)

/-! ### Reactions, passes and settling -/

theorem State.MovesTo.followLoss {s u : State} {c : RailConfig} {r : RailIx} (hr : s.movable r)
    (h : s.followLoss c r = some u) : s.MovesTo u := by
  unfold State.followLoss at h
  split at h
  · cases h
    exact State.MovesTo.enterFalling c _ hr
  · cases h

/-- All that a reaction can do: it moves one fitted rail that was neither FALLING nor FAULT. -/
theorem State.MovesTo.react {s u : State} {o : Occasion} {r : RailIx} (h : s.react o r = some u) : s.MovesTo u := by
  unfold State.react at h
  split at h
  · cases h
  rename_i c hc
  have hm (st : RailState) (e : (s.rails.get r).state = st) (a : st ≠ .falling) (b : st ≠ .fault) : s.movable r :=
    State.movable_of hc (e ▸ a) (e ▸ b)
  split at h
  · rename_i e
    split at h <;> cases h
    exact State.MovesTo.enterWaiting c (hm _ e (by decide) (by decide))
  · rename_i e
    split at h
    · cases h
      exact State.MovesTo.enter _ (hm _ e (by decide) (by decide))
    · split at h <;> cases h
      exact State.MovesTo.enterSettling c (hm _ e (by decide) (by decide))
  · rename_i e
    split at h
    · cases h
      exact State.MovesTo.enter _ (hm _ e (by decide) (by decide))
    · split at h <;> cases h
      exact State.MovesTo.enter _ (hm _ e (by decide) (by decide))
  · rename_i e
    exact State.MovesTo.followLoss (hm _ e (by decide) (by decide)) h
  · rename_i e
    obtain ⟨v, -, hv⟩ := List.exists_of_findSome?_eq_some h
    have hr := hm _ e (by decide) (by decide)
    cases v
    · exact State.MovesTo.followLoss hr hv
    · cases hv
    · simp only [State.goodReaction] at hv
      split at hv <;> cases hv
      exact State.MovesTo.enterDraining c hr
  · rename_i e
    obtain ⟨v, -, hv⟩ := List.exists_of_findSome?_eq_some h
    have hr := hm _ e (by decide) (by decide)
    cases v
    · exact State.MovesTo.followLoss hr hv
    · simp only [State.drainingReaction] at hv
      split at hv <;> cases hv
      exact State.MovesTo.release c hr
    · simp only [State.drainingReaction] at hv
      split at hv <;> cases hv
      exact State.MovesTo.enter _ hr
  · cases h
  · cases h

/-- Moves along a list of rails are moves. -/
theorem State.MovesTo.foldl {α : Type} (f : State → α → State) (hf : ∀ t a, State.MovesTo t (f t a)) (l : List α)
    (s : State) : s.MovesTo (l.foldl f s) := by
  induction l generalizing s with
  | nil => exact State.MovesTo.refl s
  | cons a l ih => exact (hf s a).trans (ih _)

theorem State.MovesTo.pass (s : State) (o : Occasion) : s.MovesTo (s.pass o) := by
  refine State.MovesTo.foldl _ (fun t r => ?_) _ s
  split
  · rename_i h
    exact State.MovesTo.react h
  · exact State.MovesTo.refl t

theorem State.MovesTo.settleFor (o : Occasion) (n : Nat) (s : State) : s.MovesTo (State.settleFor o n s) := by
  induction n generalizing s with
  | zero => exact State.MovesTo.refl s
  | succ n ih =>
    unfold State.settleFor
    split
    · exact State.MovesTo.pass s o
    · exact (State.MovesTo.pass s o).trans (ih _)

/-- All that the consequent events of a change can do (R32). -/
theorem State.settle_moves (s : State) (o : Occasion) : s.MovesTo (s.settle o) := State.MovesTo.settleFor o 200 s

/-! ### Rest -/

/-- A state is at rest exactly when no rail reacts, whatever the occasion. -/
theorem State.atRest_iff (s : State) (o : Occasion) : s.atRest ↔ ∀ r : RailIx, s.react o r = none := by
  have hv (f : View → Option State) : (viewOrder o).findSome? f = none ↔ ∀ v, f v = none := by
    rw [List.findSome?_eq_none_iff]
    exact ⟨fun h v => h v (viewOrder_mem o v), fun h v _ => h v⟩
  constructor
  · intro h r
    unfold State.react
    split
    · rfl
    rename_i c hc
    have := h r c hc
    cases e : (s.rails.get r).state <;> simp only [e] at this ⊢
    · simp [this]
    · simp [this]
    · simp [this]
    · simp only [State.followLoss]
      by_cases p : c.policy = .follow <;> simp [p, this]
    · rw [hv]
      intro v
      cases v <;> simp only [State.goodReaction, State.followLoss]
      · by_cases p : c.policy = .follow <;> simp [p, this.1]
      · simp [this.2]
    · rw [hv]
      intro v
      cases v <;> simp only [State.drainingReaction, State.followLoss]
      · by_cases p : c.policy = .follow <;> simp [p, this.1]
      · simp [this.2.1]
      · by_cases p : s.demanded c.zone = true <;> simp [p, this.2.2]
  · intro h r c hc
    have h := h r
    unfold State.react at h
    simp only [hc] at h
    cases e : (s.rails.get r).state <;> simp only [e] at h ⊢
    · by_contra k
      simp [k] at h
    · by_cases a : s.gateOpen c = true <;> by_cases b : s.allGood c r = true <;> simp_all
    · by_cases a : s.gateOpen c = true <;> by_cases b : s.allGood c r = true <;> simp_all
    · intro p
      by_contra k
      simp [State.followLoss, p, k] at h
    · rw [hv] at h
      refine ⟨fun p => ?_, ?_⟩
      · by_contra k
        simpa [State.goodReaction, State.followLoss, p, k] using h .prerequisites
      · by_contra k
        simpa [State.goodReaction, k] using h .demand
    · rw [hv] at h
      refine ⟨fun p => ?_, ?_, fun d => ?_⟩
      · by_contra k
        simpa [State.drainingReaction, State.followLoss, p, k] using h .prerequisites
      · by_contra k
        simpa [State.drainingReaction, k] using h .holds
      · by_contra k
        simpa [State.drainingReaction, d, k] using h .demand

/-- Settling a state at rest changes nothing. -/
theorem State.settle_of_atRest {s : State} (h : s.atRest) (o : Occasion) : s.settle o = s := by
  have hp : s.pass o = s := by
    unfold State.pass
    generalize railOrder o = l
    induction l with
    | nil => rfl
    | cons r l ih => simpa [(State.atRest_iff s o).1 h r] using ih
  simp [State.settle, State.settleFor, hp]

/-! ### Settling ends (R32)

Every reaction lowers `State.restless`: a rail that is up spends one of at most two moves, and no rail comes up; a rail
that is starting moves on, and only a move of a rail that is up can set it back, by one. -/

/-- What a rail has still to do, five for each move of a rail that is up. -/
def State.restlessRail (s : State) (r : RailIx) : Nat :=
  match s.fittedConfig r with
  | none => 0
  | some c =>
    match (s.rails.get r).state with
    | .off => if s.gateOpen c then 4 else 0
    | .waiting => if s.gateOpen c then (if s.mayStart c r then 3 else 2) else 1
    | .settling => if s.gateOpen c then (if s.allGood c r then 2 else 3) else 1
    | .ramping => 1
    | .good => if s.demanded c.zone then 5 else 10
    | .draining => if s.demanded c.zone && s.zoneNormal c.zone then 10 else 5
    | .falling => 0
    | .fault => 0

/-- The sum over the four rails. -/
def State.restless (s : State) : Nat :=
  s.restlessRail .r0 + s.restlessRail .r1 + s.restlessRail .r2 + s.restlessRail .r3

theorem State.restlessRail_le (s : State) (r : RailIx) : s.restlessRail r ≤ 10 := by
  unfold State.restlessRail
  repeat' split
  all_goals omega

theorem State.restless_le (s : State) : s.restless ≤ 40 := by
  have := s.restlessRail_le .r0
  have := s.restlessRail_le .r1
  have := s.restlessRail_le .r2
  have := s.restlessRail_le .r3
  unfold State.restless
  omega

/-- What the sequencer's judgements read of the rest of the state stays the same through moves. -/
theorem State.MovesTo.gateOpen {s t : State} (h : s.MovesTo t) (c : RailConfig) : t.gateOpen c = s.gateOpen c := by
  simp [State.gateOpen, State.demanded, State.zoneNormal, h.line, h.startup, h.zones]

theorem State.MovesTo.demanded {s t : State} (h : s.MovesTo t) (z : ZoneIx) : t.demanded z = s.demanded z := by
  simp [State.demanded, h.zones]

theorem State.MovesTo.zoneNormal {s t : State} (h : s.MovesTo t) (z : ZoneIx) : t.zoneNormal z = s.zoneNormal z := by
  simp [State.zoneNormal, h.zones]

theorem State.MovesTo.own {s t : State} (h : s.MovesTo t) : t.own = s.own := State.own_congr h.startup

theorem State.MovesTo.remoteAll {s t : State} (h : s.MovesTo t) (c : RailConfig) (ok : RailState → Bool) :
    t.remoteAll c ok = s.remoteAll c ok := by
  simp [State.remoteAll, State.peerRail, h.peers, h.own]

theorem State.MovesTo.shelfDemand {s t : State} (h : s.MovesTo t) (z : ZoneIx) : t.shelfDemand z = s.shelfDemand z := by
  simp [State.shelfDemand, h.zones, h.peers, h.own]

theorem State.MovesTo.mayStart {s t : State} (h : s.MovesTo t) {c : RailConfig} {q : RailIx}
    (e : t.allGood c q = s.allGood c q) : t.mayStart c q = s.mayStart c q := by
  simp [State.mayStart, e, h.remoteAll, h.shelfDemand]

/-- A rail that may start has all its prerequisites good. -/
theorem State.allGood_of_mayStart {s : State} {c : RailConfig} {r : RailIx} (h : s.mayStart c r = true) :
    s.allGood c r = true := by
  simp only [State.mayStart, Bool.and_eq_true] at h
  exact h.1.1

/-- A move of `r` between states other than GOOD changes no rail's "all prerequisites good". -/
theorem State.MovesTo.allGood {s t : State} (h : s.MovesTo t) {r : RailIx}
    (ho : ∀ q, q ≠ r → t.rails.get q = s.rails.get q)
    (hs : (s.rails.get r).state ≠ .good) (ht : (t.rails.get r).state ≠ .good) (c : RailConfig) (q : RailIx) :
    t.allGood c q = s.allGood c q := by
  have hg (p : RailIx) : decide (t.shownState p = .good) = decide (s.shownState p = .good) := by
    by_cases e : p = r
    · subst e
      rw [decide_eq_decide]
      simp only [State.shownState, h.fitted]
      cases s.fittedConfig p <;> simp [hs, ht]
    · rw [State.shownState_congr h.startup p (by rw [ho p e])]
  simp [State.allGood, State.localAll, (h.kept q).1, h.own, hg]

/-- A rail whose state stays is set back by at most one. -/
theorem State.MovesTo.restlessRail_le {s t : State} (h : s.MovesTo t) {q : RailIx}
    (e : t.rails.get q = s.rails.get q) : t.restlessRail q ≤ s.restlessRail q + 1 := by
  simp only [State.restlessRail, h.fitted, e, h.gateOpen, h.demanded, h.zoneNormal]
  repeat' split
  all_goals omega

theorem State.MovesTo.restlessRail_eq {s t : State} (h : s.MovesTo t) {r q : RailIx}
    (ho : ∀ q, q ≠ r → t.rails.get q = s.rails.get q)
    (hs : (s.rails.get r).state ≠ .good) (ht : (t.rails.get r).state ≠ .good) (e : q ≠ r) :
    t.restlessRail q = s.restlessRail q := by
  simp only [State.restlessRail, h.fitted, ho q e, h.gateOpen, h.demanded, h.zoneNormal, h.allGood ho hs ht,
    h.mayStart (h.allGood ho hs ht _ _)]

/-- A starting rail that moves on lowers the sum. -/
theorem State.MovesTo.restless_start {s t : State} (h : s.MovesTo t) {r : RailIx}
    (ho : ∀ q, q ≠ r → t.rails.get q = s.rails.get q)
    (hs : (s.rails.get r).state ≠ .good) (ht : (t.rails.get r).state ≠ .good)
    (hr : t.restlessRail r < s.restlessRail r) : t.restless < s.restless := by
  unfold State.restless
  have k (q : RailIx) (e : q ≠ r) := h.restlessRail_eq ho hs ht e
  cases r
  · rw [k .r1 (by decide), k .r2 (by decide), k .r3 (by decide)]; omega
  · rw [k .r0 (by decide), k .r2 (by decide), k .r3 (by decide)]; omega
  · rw [k .r0 (by decide), k .r1 (by decide), k .r3 (by decide)]; omega
  · rw [k .r0 (by decide), k .r1 (by decide), k .r2 (by decide)]; omega

/-- A rail that is up and moves lowers the sum. -/
theorem State.MovesTo.restless_up {s t : State} (h : s.MovesTo t) {r : RailIx}
    (ho : ∀ q, q ≠ r → t.rails.get q = s.rails.get q)
    (hr : t.restlessRail r + 5 ≤ s.restlessRail r) : t.restless < s.restless := by
  unfold State.restless
  have k (q : RailIx) (e : q ≠ r) := h.restlessRail_le (ho q e)
  cases r
  · have := k .r1 (by decide); have := k .r2 (by decide); have := k .r3 (by decide); omega
  · have := k .r0 (by decide); have := k .r2 (by decide); have := k .r3 (by decide); omega
  · have := k .r0 (by decide); have := k .r1 (by decide); have := k .r3 (by decide); omega
  · have := k .r0 (by decide); have := k .r1 (by decide); have := k .r2 (by decide); omega

theorem State.putRail_others (s : State) (r : RailIx) (x : Rail) (m : Monitor) (q : RailIx) (e : q ≠ r) :
    (s.putRail r x m).rails.get q = s.rails.get q := by
  simp [Four.get_set_other _ _ e]

theorem State.enterFalling_others (s : State) (c : RailConfig) (r : RailIx) (k : FallCause) (q : RailIx) (e : q ≠ r) :
    (s.enterFalling c r k).rails.get q = s.rails.get q := by
  rw [State.enterFalling_eq]
  exact State.putRail_others _ _ _ _ _ e

theorem State.enterFalling_state (s : State) (c : RailConfig) (r : RailIx) (k : FallCause) :
    ((s.enterFalling c r k).rails.get r).state = .falling := by
  simp [State.enterFalling_eq, Rail.entered]

theorem State.enterSettling_others (s : State) (c : RailConfig) (r q : RailIx) (e : q ≠ r) :
    (s.enterSettling c r).rails.get q = s.rails.get q := by
  rw [State.enterSettling_eq]
  split <;> exact State.putRail_others _ _ _ _ _ e

theorem State.enterSettling_state (s : State) (c : RailConfig) (r : RailIx) :
    ((s.enterSettling c r).rails.get r).state = .ramping ∨ ((s.enterSettling c r).rails.get r).state = .settling := by
  rw [State.enterSettling_eq]
  split <;> simp [Rail.entered]

theorem State.enterWaiting_others (s : State) (c : RailConfig) (r q : RailIx) (e : q ≠ r) :
    (s.enterWaiting c r).rails.get q = s.rails.get q := by
  rw [State.enterWaiting_eq]
  split
  · exact State.enterSettling_others _ _ _ _ e
  · exact State.putRail_others _ _ _ _ _ e

theorem State.enterWaiting_state (s : State) (c : RailConfig) (r : RailIx) :
    ((s.enterWaiting c r).rails.get r).state = .waiting ∨ ((s.enterWaiting c r).rails.get r).state = .ramping ∨
      ((s.enterWaiting c r).rails.get r).state = .settling := by
  rw [State.enterWaiting_eq]
  split
  · exact .inr (State.enterSettling_state s c r)
  · exact .inl (by simp)

theorem State.release_others (s : State) (c : RailConfig) (r q : RailIx) (e : q ≠ r) :
    (s.release c r).rails.get q = s.rails.get q := by
  unfold State.release
  rw [State.enterFalling_others _ _ _ _ _ e, State.queueRecord_rails]

theorem State.release_state (s : State) (c : RailConfig) (r : RailIx) :
    ((s.release c r).rails.get r).state = .falling := State.enterFalling_state _ _ _ _

theorem State.enterDraining_others (s : State) (c : RailConfig) (r q : RailIx) (e : q ≠ r) :
    (s.enterDraining c r).rails.get q = s.rails.get q := by
  rw [State.enterDraining_eq]
  split
  · exact State.putRail_others _ _ _ _ _ e
  · rw [State.release_others _ _ _ _ e]
    exact State.putRail_others _ _ _ _ _ e

theorem State.enterDraining_state (s : State) (c : RailConfig) (r : RailIx) :
    ((s.enterDraining c r).rails.get r).state = .draining ∨ ((s.enterDraining c r).rails.get r).state = .falling := by
  rw [State.enterDraining_eq]
  split
  · exact .inl (by simp [State.draining, Rail.entered])
  · exact .inr (State.release_state _ _ _)

/-- A rail that falls has nothing left to do. -/
theorem State.restlessRail_falling {t : State} {r : RailIx} (h : (t.rails.get r).state = .falling) :
    t.restlessRail r = 0 := by
  unfold State.restlessRail
  split
  · rfl
  · simp [h]

/-- Every reaction lowers the sum. -/
theorem State.restless_react {s u : State} {o : Occasion} {r : RailIx} (h : s.react o r = some u) :
    u.restless < s.restless := by
  have hm := State.MovesTo.react h
  unfold State.react at h
  split at h
  · cases h
  rename_i c hc
  have fall {k : FallCause} (e : u = s.enterFalling c r k) (hs : (s.rails.get r).state = .ramping ∨
      (s.rails.get r).state = .good ∨ (s.rails.get r).state = .draining) : u.restless < s.restless := by
    have hst : (u.rails.get r).state = .falling := by rw [e]; exact State.enterFalling_state s c r k
    have ho (q : RailIx) (hq : q ≠ r) : u.rails.get q = s.rails.get q := by
      rw [e]; exact State.enterFalling_others s c r k q hq
    have h0 := State.restlessRail_falling hst
    rcases hs with hs | hs | hs
    · refine hm.restless_start ho (by simp [hs]) (by simp [hst]) ?_
      rw [h0]
      simp [State.restlessRail, hc, hs]
    · refine hm.restless_up ho ?_
      rw [h0]
      simp only [State.restlessRail, hc, hs]
      split <;> omega
    · refine hm.restless_up ho ?_
      rw [h0]
      simp only [State.restlessRail, hc, hs]
      split <;> omega
  have loss {w : State} (e : s.followLoss c r = some w) : w = s.enterFalling c r .prereqLost := by
    unfold State.followLoss at e
    split at e <;> cases e
    rfl
  split at h
  · rename_i e
    split at h <;> cases h
    rename_i hg
    have hst := State.enterWaiting_state s c r
    refine hm.restless_start (State.enterWaiting_others s c r) (by simp [e])
      (by rcases hst with k | k | k <;> simp [k]) ?_
    rcases hst with k | k | k <;> simp only [State.restlessRail, hm.fitted, hc, e, k, hm.gateOpen, hg, if_true] <;>
      (try split) <;> omega
  · rename_i e
    split at h
    · cases h
      rename_i hg
      have ho (q : RailIx) (hq : q ≠ r) : (s.enter r .off).rails.get q = s.rails.get q := by
        simp [Four.get_set_other _ _ hq]
      refine hm.restless_start ho (by simp [e]) (by simp) ?_
      have hg' : s.gateOpen c = false := by simpa using hg
      simp [State.restlessRail, hm.fitted, hc, e, hm.gateOpen, hg']
    · rename_i hg
      have hg' : s.gateOpen c = true := by simpa using hg
      split at h <;> cases h
      rename_i ha
      have ho := State.enterSettling_others s c r
      have hst := State.enterSettling_state s c r
      refine hm.restless_start ho (by simp [e]) (by rcases hst with k | k <;> simp [k]) ?_
      have hag := hm.allGood ho (by simp [e]) (by rcases hst with k | k <;> simp [k]) c r
      rcases hst with k | k <;>
        simp [State.restlessRail, hm.fitted, hc, e, k, hm.gateOpen, hg', hag, ha, State.allGood_of_mayStart ha]
  · rename_i e
    split at h
    · cases h
      rename_i hg
      have ho (q : RailIx) (hq : q ≠ r) : (s.enter r .off).rails.get q = s.rails.get q := by
        simp [Four.get_set_other _ _ hq]
      refine hm.restless_start ho (by simp [e]) (by simp) ?_
      have hg' : s.gateOpen c = false := by simpa using hg
      simp [State.restlessRail, hm.fitted, hc, e, hm.gateOpen, hg']
    · rename_i hg
      have hg' : s.gateOpen c = true := by simpa using hg
      split at h <;> cases h
      rename_i ha
      have ha' : s.allGood c r = false := by simpa using ha
      have ho (q : RailIx) (hq : q ≠ r) : (s.enter r .waiting).rails.get q = s.rails.get q := by
        simp [Four.get_set_other _ _ hq]
      have hag := hm.allGood ho (by simp [e]) (by simp) c r
      refine hm.restless_start ho (by simp [e]) (by simp) ?_
      have hs' : s.mayStart c r = false := by simp [State.mayStart, ha']
      simp [State.restlessRail, hm.fitted, hc, e, hm.gateOpen, hg', hm.mayStart hag, hs', ha']
  · rename_i e
    exact fall (loss h) (.inl e)
  · rename_i e
    obtain ⟨v, -, hv⟩ := List.exists_of_findSome?_eq_some h
    cases v
    · exact fall (loss hv) (.inr (.inl e))
    · cases hv
    · simp only [State.goodReaction] at hv
      split at hv <;> cases hv
      rename_i hd
      refine hm.restless_up (State.enterDraining_others s c r) ?_
      have hd' : s.demanded c.zone = false := by simpa using hd
      rcases s.enterDraining_state c r with k | k <;>
        simp [State.restlessRail, hm.fitted, hc, e, k, hm.demanded, hd']
  · rename_i e
    obtain ⟨v, -, hv⟩ := List.exists_of_findSome?_eq_some h
    cases v
    · exact fall (loss hv) (.inr (.inr e))
    · simp only [State.drainingReaction] at hv
      split at hv <;> cases hv
      have h0 := State.restlessRail_falling (State.release_state s c r)
      refine hm.restless_up (State.release_others s c r) ?_
      rw [h0]
      simp only [State.restlessRail, hc, e]
      split <;> omega
    · simp only [State.drainingReaction] at hv
      split at hv <;> cases hv
      rename_i hd
      have ho (q : RailIx) (hq : q ≠ r) : (s.enter r .good).rails.get q = s.rails.get q := by
        simp [Four.get_set_other _ _ hq]
      refine hm.restless_up ho ?_
      simp [State.restlessRail, hm.fitted, hc, e, hm.demanded, Bool.and_eq_true_iff.1 hd]
  · cases h
  · cases h

/-- Along a list of rails either none reacts or the sum is lowered. -/
theorem State.restless_foldl (o : Occasion) (l : List RailIx) (s : State) :
    let t := l.foldl (fun t r => match t.react o r with | some u => u | none => t) s
    (t = s ∧ ∀ r ∈ l, s.react o r = none) ∨ t.restless < s.restless := by
  induction l generalizing s with
  | nil => exact .inl ⟨rfl, by simp⟩
  | cons r l ih =>
    simp only [List.foldl_cons]
    cases h : s.react o r with
    | none =>
      rcases ih s with ⟨a, b⟩ | a
      · exact .inl ⟨a, by simpa [h] using b⟩
      · exact .inr a
    | some u =>
      have hu := State.restless_react h
      rcases ih u with ⟨a, -⟩ | a
      · exact .inr (by simp only [a]; exact hu)
      · exact .inr (Nat.lt_trans a hu)

theorem State.pass_cases (s : State) (o : Occasion) :
    (s.pass o = s ∧ s.atRest) ∨ (s.pass o).restless < s.restless := by
  rcases State.restless_foldl o (railOrder o) s with ⟨a, b⟩ | a
  · exact .inl ⟨a, (State.atRest_iff s o).2 fun r => b r (railOrder_mem o r)⟩
  · exact .inr a

/-- The sum depends on what moves leave and on the four rail states. -/
theorem State.MovesTo.restless_congr {s t : State} (h : s.MovesTo t) (e : t.railStates = s.railStates) :
    t.restless = s.restless := by
  have hst (r : RailIx) : (t.rails.get r).state = (s.rails.get r).state := by
    have := congrArg (fun f => f.get r) e
    simpa [State.railStates] using this
  have hsh (r : RailIx) : t.shownState r = s.shownState r := State.shownState_congr h.startup r (hst r)
  have hag (c : RailConfig) (r : RailIx) : t.allGood c r = s.allGood c r := by
    simp only [State.allGood, State.localAll, (h.kept r).1, h.own, hsh]
  have hr (r : RailIx) : t.restlessRail r = s.restlessRail r := by
    simp only [State.restlessRail, h.fitted, hst, h.gateOpen, h.demanded, h.zoneNormal, hag, h.mayStart (hag _ _)]
  simp only [State.restless, hr]

theorem State.settleFor_atRest (o : Occasion) (n : Nat) (s : State) (hn : s.restless < n) :
    (State.settleFor o n s).atRest := by
  induction n generalizing s with
  | zero => omega
  | succ n ih =>
    unfold State.settleFor
    rcases s.pass_cases o with ⟨a, b⟩ | a
    · simpa [a] using b
    · split
      · rename_i e
        have := (State.MovesTo.pass s o).restless_congr e
        omega
      · exact ih _ (by omega)

/-- The consequent events of a change come to an end: after settling no rail has a move left (R32). -/
theorem State.settle_atRest (s : State) (o : Occasion) : (s.settle o).atRest :=
  State.settleFor_atRest o 200 s (by have := s.restless_le; omega)

/-- Every settling is single moves of Table 10, one after another. -/
theorem State.settle_reaches (s : State) (o : Occasion) :
    Relation.ReflTransGen (State.MovesOnce o) s (s.settle o) := by
  have hp (u : State) : Relation.ReflTransGen (State.MovesOnce o) u (u.pass o) := by
    unfold State.pass
    generalize railOrder o = l
    induction l generalizing u with
    | nil => exact .refl
    | cons r l ih =>
      simp only [List.foldl_cons]
      cases hr : u.react o r with
      | none => exact ih u
      | some w => exact .trans (.single ⟨r, hr⟩) (ih w)
  have hf (n : Nat) (u : State) : Relation.ReflTransGen (State.MovesOnce o) u (State.settleFor o n u) := by
    induction n generalizing u with
    | zero => exact .refl
    | succ n ih =>
      unfold State.settleFor
      split
      · exact hp u
      · exact (hp u).trans (ih _)
  exact hf 200 s

/-- All that settling does. -/
theorem State.settle_settlesTo (s : State) (o : Occasion) : State.SettlesTo o s (s.settle o) :=
  ⟨s.settle_reaches o, s.settle_atRest o⟩

/-- What the consequent events leave alone. -/
theorem State.SettlesTo.moves {o : Occasion} {s t : State} (h : State.SettlesTo o s t) : s.MovesTo t := by
  obtain ⟨h, -⟩ := h
  induction h with
  | refl => exact State.MovesTo.refl s
  | tail _ k ih => obtain ⟨r, hr⟩ := k; exact ih.trans (State.MovesTo.react hr)

end Sys2Proof.Machine
end

