-- ==== Sys2Proof/Laws/Moves.lean ====
section
/-! SUPPORT. Laws/Moves.lean: which rails a reaction, settling, a trip, a restart and a release from FAULT leave alone,
and what they make of the others. -/

namespace Sys2Proof.Machine
open Sys2Proof

/-! ### A rail that does not react stays -/

/-- The records of rail `q` are the same in both states. -/
def State.sameRail (s t : State) (q : RailIx) : Prop :=
  t.rails.get q = s.rails.get q ∧ t.monitor.rails.get q = s.monitor.rails.get q

theorem State.sameRail.trans {s t u : State} {q : RailIx} (h : s.sameRail t q) (k : t.sameRail u q) : s.sameRail u q :=
  ⟨k.1.trans h.1, k.2.trans h.2⟩

theorem State.putRail_sameRail (s : State) (r : RailIx) (x : Rail) (m : Monitor) (q : RailIx) (e : q ≠ r) :
    s.sameRail (s.putRail r x m) q := by
  simp [State.sameRail, Four.get_set_other _ _ e]

theorem State.queueRecord_sameRail (s : State) (x : TimingRecord) (q : RailIx) : s.sameRail (s.queueRecord x) q := by
  simp [State.sameRail]

theorem State.enterFalling_sameRail (s : State) (c : RailConfig) (r : RailIx) (k : FallCause) (q : RailIx) (e : q ≠ r) :
    s.sameRail (s.enterFalling c r k) q := by
  rw [State.enterFalling_eq]
  exact State.putRail_sameRail _ _ _ _ _ e

theorem State.release_sameRail (s : State) (c : RailConfig) (r q : RailIx) (e : q ≠ r) :
    s.sameRail (s.release c r) q :=
  (State.queueRecord_sameRail _ _ _).trans (State.enterFalling_sameRail _ _ _ _ _ e)

theorem State.enterDraining_sameRail (s : State) (c : RailConfig) (r q : RailIx) (e : q ≠ r) :
    s.sameRail (s.enterDraining c r) q := by
  have h : s.sameRail (s.draining c r) q := State.putRail_sameRail _ _ _ _ _ e
  rw [State.enterDraining_eq]
  split
  · exact h
  · exact h.trans (State.release_sameRail _ _ _ _ e)

/-- A reaction of one rail touches no other rail's records. -/
theorem State.react_sameRail {s u : State} {o : Occasion} {r : RailIx} (h : s.react o r = some u) (q : RailIx)
    (e : q ≠ r) : s.sameRail u q := by
  have enter (st : RailState) : s.sameRail (s.enter r st) q := State.putRail_sameRail _ _ _ _ _ e
  have loss {c : RailConfig} {w : State} (h : s.followLoss c r = some w) : s.sameRail w q := by
    unfold State.followLoss at h
    split at h <;> cases h
    exact State.enterFalling_sameRail _ _ _ _ _ e
  unfold State.react at h
  split at h
  · cases h
  rename_i c hc
  have settling : s.sameRail (s.enterSettling c r) q := by
    rw [State.enterSettling_eq]
    split <;> exact State.putRail_sameRail _ _ _ _ _ e
  split at h
  · split at h <;> cases h
    rw [State.enterWaiting_eq]
    split
    · exact settling
    · exact enter _
  · split at h
    · cases h
      exact enter _
    · split at h <;> cases h
      exact settling
  · split at h
    · cases h
      exact enter _
    · split at h <;> cases h
      exact enter _
  · exact loss h
  · obtain ⟨v, -, hv⟩ := List.exists_of_findSome?_eq_some h
    cases v
    · exact loss hv
    · cases hv
    · simp only [State.goodReaction] at hv
      split at hv <;> cases hv
      exact State.enterDraining_sameRail _ _ _ _ e
  · obtain ⟨v, -, hv⟩ := List.exists_of_findSome?_eq_some h
    cases v
    · exact loss hv
    · simp only [State.drainingReaction] at hv
      split at hv <;> cases hv
      exact State.release_sameRail _ _ _ _ e
    · simp only [State.drainingReaction] at hv
      split at hv <;> cases hv
      exact enter _
  · cases h
  · cases h

/-- A rail that reacts in no state its fellows' moves can lead to keeps its records through settling. -/
theorem State.settle_sameRail {s : State} {q : RailIx}
    (h : ∀ (o : Occasion) (u : State), s.MovesTo u → s.sameRail u q → u.react o q = none) (o : Occasion) :
    s.sameRail (s.settle o) q := by
  have hp (u : State) (hm : s.MovesTo u) (hs : s.sameRail u q) : s.MovesTo (u.pass o) ∧ s.sameRail (u.pass o) q := by
    unfold State.pass
    generalize railOrder o = l
    induction l generalizing u with
    | nil => exact ⟨hm, hs⟩
    | cons r l ih =>
      simp only [List.foldl_cons]
      cases hr : u.react o r with
      | none => exact ih u hm hs
      | some w =>
        refine ih w (hm.trans (State.MovesTo.react hr)) (hs.trans (State.react_sameRail hr q ?_))
        rintro rfl
        simp [h o u hm hs] at hr
  have hf (n : Nat) (u : State) (hm : s.MovesTo u) (hs : s.sameRail u q) : s.sameRail (State.settleFor o n u) q := by
    induction n generalizing u with
    | zero => exact hs
    | succ n ih =>
      obtain ⟨a, b⟩ := hp u hm hs
      unfold State.settleFor
      split
      · exact b
      · exact ih _ a b
  exact hf 200 s (State.MovesTo.refl s) ⟨rfl, rfl⟩

/-- A rail in OFF whose gate is closed stays as it is. -/
theorem State.settle_sameRail_off {s : State} {q : RailIx} {c : RailConfig} (hc : s.fittedConfig q = some c)
    (hq : (s.rails.get q).state = .off) (hg : s.gateOpen c = false) (o : Occasion) : s.sameRail (s.settle o) q :=
  State.settle_sameRail (fun o u hm hs => by
    simp [State.react, hm.fitted, hc, hs.1, hq, hm.gateOpen, hg]) o

/-! ### A trip or a restart (R23, R26) -/

/-- The monitor record of a rail taken down: counted from 0 again when the rail changed state (R55). -/
def Monitor.takenDown (m : Monitor) (x : Rail) : Monitor :=
  match x.state with
  | .ramping | .good | .draining | .waiting | .settling => m.restarted
  | .off | .falling | .fault => m

/-- What taking one rail down does. -/
theorem State.takeDown_eq (s : State) (c : RailConfig) (r : RailIx) (k : FallCause) :
    s.takeDown c r k =
      s.putRail r ((s.rails.get r).takenDown c k s.now) ((s.monitor.rails.get r).takenDown (s.rails.get r)) := by
  have he : s = s.putRail r (s.rails.get r) (s.monitor.rails.get r) := by
    simp [State.putRail, State.setRail, State.setMonitor]
  unfold State.takeDown
  cases hs : (s.rails.get r).state <;>
    simp only [Rail.takenDown, Monitor.takenDown, hs] <;>
    first
      | exact he
      | (rw [State.enterFalling_eq]; simp [Rail.entered, Monitor.restarted])
      | (rw [State.enter_eq]; simp [Rail.entered, Monitor.restarted])

/-- What one rail of `which` becomes, and what a rail that is not fitted or not of `which` stays. -/
def State.downRail (s : State) (k : FallCause) (which : RailConfig → Bool) (r : RailIx) : Rail :=
  match s.fittedConfig r with
  | some c => if which c then (s.rails.get r).takenDown c k s.now else s.rails.get r
  | none => s.rails.get r

/-- The same of the monitor record. -/
def State.downMonitor (s : State) (which : RailConfig → Bool) (r : RailIx) : Monitor :=
  match s.fittedConfig r with
  | some c => if which c then (s.monitor.rails.get r).takenDown (s.rails.get r) else s.monitor.rails.get r
  | none => s.monitor.rails.get r

/-- All that a trip or a restart does to the rails, in one step. -/
theorem State.takeDownAll_eq (s : State) (k : FallCause) (which : RailConfig → Bool) :
    s.takeDownAll k which =
      { s with
        rails := Four.of (s.downRail k which)
        monitor := { s.monitor with rails := Four.of (s.downMonitor which) } } := by
  have one (t : State) (r : RailIx) :
      (match t.fittedConfig r with
       | some c => if which c then t.takeDown c r k else t
       | none => t) = t.putRail r (t.downRail k which r) (t.downMonitor which r) := by
    have he : t = t.putRail r (t.rails.get r) (t.monitor.rails.get r) := by
      simp [State.putRail, State.setRail, State.setMonitor]
    unfold State.downRail State.downMonitor
    cases t.fittedConfig r with
    | none => exact he
    | some c =>
      by_cases h : which c
      · simp [h, State.takeDown_eq]
      · simpa [h] using he
  have all : s.takeDownAll k which = RailIx.all.foldl
      (fun t r => t.putRail r (t.downRail k which r) (t.downMonitor which r)) s := by
    unfold State.takeDownAll
    congr 1
    funext t r
    exact one t r
  rw [all]
  simp [RailIx.all, State.putRail, State.setRail, State.setMonitor, State.downRail, State.downMonitor,
    State.fittedConfig, Four.of, Four.set, Four.get]

/-! ### Release from FAULT (R30) -/

/-- Whether rail `r` is a fitted rail in FAULT of a zone of `which`. -/
def State.releasedRail (s : State) (which : ZoneIx → Bool) (r : RailIx) : Bool :=
  match s.fittedConfig r with
  | some c => which c.zone && decide ((s.rails.get r).state = .fault)
  | none => false

/-- All that a release from FAULT does. -/
theorem State.releaseFaults_eq (s : State) (which : ZoneIx → Bool) :
    s.releaseFaults which =
      { s with
        rails := Four.of (fun r =>
          if s.releasedRail which r then (s.rails.get r).entered .off s.now else s.rails.get r)
        monitor := { s.monitor with
          rails := Four.of (fun r =>
            if s.releasedRail which r then (s.monitor.rails.get r).restarted else s.monitor.rails.get r) } } := by
  have one (t : State) (r : RailIx) :
      (match t.fittedConfig r with
       | some c => if which c.zone && decide ((t.rails.get r).state = .fault) then t.enter r .off else t
       | none => t) =
      t.putRail r (if t.releasedRail which r then (t.rails.get r).entered .off t.now else t.rails.get r)
        (if t.releasedRail which r then (t.monitor.rails.get r).restarted else t.monitor.rails.get r) := by
    have he : t = t.putRail r (t.rails.get r) (t.monitor.rails.get r) := by
      simp [State.putRail, State.setRail, State.setMonitor]
    unfold State.releasedRail
    cases t.fittedConfig r with
    | none => exact he
    | some c =>
      by_cases h : (which c.zone && decide ((t.rails.get r).state = .fault)) = true
      · simp only [h, if_true]
        exact State.enter_eq t r .off
      · simp only [h]
        exact he
  have all : s.releaseFaults which = RailIx.all.foldl (fun t r =>
      t.putRail r (if t.releasedRail which r then (t.rails.get r).entered .off t.now else t.rails.get r)
        (if t.releasedRail which r then (t.monitor.rails.get r).restarted else t.monitor.rails.get r)) s := by
    unfold State.releaseFaults
    congr 1
    funext t r
    exact one t r
  rw [all]
  simp [RailIx.all, State.putRail, State.setRail, State.setMonitor, State.releasedRail, State.fittedConfig, Four.of,
    Four.set, Four.get]
  refine ⟨⟨?_, ?_, ?_⟩, ?_, ?_, ?_⟩ <;> rfl

/-! ### Entry to FAULT (R29) -/

/-- Flags set before are still set after moves. -/
theorem State.MovesTo.flagSet {s t : State} (h : s.MovesTo t) {f : AlertFlag} (k : s.flagSet f = true) :
    t.flagSet f = true := by
  obtain ⟨w, hw⟩ := h.port
  simp only [State.flagSet, hw] at k ⊢
  have (v w : BitVec 9) : (v &&& f.bit != 0) = true → ((v ||| w) &&& f.bit != 0) = true := by
    intro h
    simp only [bne_iff_ne, ne_eq] at h ⊢
    intro e
    apply h
    ext i hi
    have b := congrArg (fun x : BitVec 9 => x.getLsbD i) e
    simp only [BitVec.getLsbD_and, BitVec.getLsbD_or] at b
    simp only [BitVec.getElem_eq_testBit_toNat, BitVec.testBit_toNat, BitVec.getLsbD_and]
    revert b
    cases v.getLsbD i <;> cases f.bit.getLsbD i <;> cases w.getLsbD i <;> simp
  exact this _ _ k

end Sys2Proof.Machine
end

