-- ==== Sys2Proof/WellFormed.lean ====
section
/-! DEFINITION. WellFormed.lean: which operands a command can have on the part. The machine is total and needs none of
these checks to run (assumption 26); they say which terms stand for something that can happen. -/

namespace Sys2Proof

/-- No entry of a list stands in it twice. -/
def noRepeats {α : Type} [DecidableEq α] (l : List α) : Bool := decide (Machine.distinctEntries l = l)

/-- An occasion names no rail, judgement or block twice. -/
def Occasion.wellFormed (o : Occasion) : Bool := noRepeats o.rails && noRepeats o.views && noRepeats o.blocks

/-- The check of each command's own operands: a load reads 108 bytes (R167); UNKNOWN is a byte that names no command
(R181); a frame is received with exactly its expected bytes, and ends by a gap short of them (R144). -/
def Instr.operandsFit : Instr → Bool
  | .powerOn _ _ => true
  | .resetNLow _ => true
  | .resetNHigh _ _ => true
  | .configurationLoadEnd _ image => image.length == Config.imageLength
  | .transactionBegin _ => true
  | .transactionEnd _ _ => true
  | .unknown _ code => (argumentBytes code).isNone
  | .readStation _ => true
  | .readLine _ => true
  | .readPeer _ _ => true
  | .readZones _ => true
  | .readTrip _ _ => true
  | .readRail _ _ => true
  | .takeRecord _ => true
  | .setDemand _ _ => true
  | .clearZone _ _ => true
  | .ackFlags _ _ => true
  | .setAlertMask _ _ => true
  | .resumeLine _ => true
  | .restart _ => true
  | .reload _ _ => true
  | .reinitialisation _ _ => true
  | .demandPinChange _ _ => true
  | .demandPinTaken _ _ => true
  | .sample _ _ _ => true
  | .settleTimerExpiry _ _ => true
  | .rampTimeout _ _ => true
  | .drainForced _ _ => true
  | .drainContinued _ _ => true
  | .dischargeTimeout _ _ => true
  | .pgLost _ _ => true
  | .slotBoundary _ => true
  | .frameBuild _ => true
  | .collision _ => true
  | .ownFrameEnd _ => true
  | .coldStart _ => true
  | .frameStart _ => true
  | .frameReceived _ bytes => Machine.expectedLength (bytes.map (·.data)) == some bytes.length
  | .receptionGap _ bytes =>
    match Machine.expectedLength (bytes.map (·.data)) with
    | some n => decide (bytes.length < n)
    | none => true

/-- The occasion of a command. -/
def Instr.occasion : Instr → Occasion
  | .powerOn o _ => o
  | .resetNLow o => o
  | .resetNHigh o _ => o
  | .configurationLoadEnd o _ => o
  | .transactionBegin o => o
  | .transactionEnd o _ => o
  | .unknown o _ => o
  | .readStation o => o
  | .readLine o => o
  | .readPeer o _ => o
  | .readZones o => o
  | .readTrip o _ => o
  | .readRail o _ => o
  | .takeRecord o => o
  | .setDemand o _ => o
  | .clearZone o _ => o
  | .ackFlags o _ => o
  | .setAlertMask o _ => o
  | .resumeLine o => o
  | .restart o => o
  | .reload o _ => o
  | .reinitialisation o _ => o
  | .demandPinChange o _ => o
  | .demandPinTaken o _ => o
  | .sample o _ _ => o
  | .settleTimerExpiry o _ => o
  | .rampTimeout o _ => o
  | .drainForced o _ => o
  | .drainContinued o _ => o
  | .dischargeTimeout o _ => o
  | .pgLost o _ => o
  | .slotBoundary o => o
  | .frameBuild o => o
  | .collision o => o
  | .ownFrameEnd o => o
  | .coldStart o => o
  | .frameStart o => o
  | .frameReceived o _ => o
  | .receptionGap o _ => o

/-- A command whose operands can occur. -/
def Instr.wellFormed (i : Instr) : Bool := i.occasion.wellFormed && i.operandsFit

end Sys2Proof
end

