-- ==== Sys2Proof/Laws/PerInstr.lean ====
section
/-! SUPPORT. Laws/PerInstr.lean: a law of every command as a term: when it happens and what it carries are
independent. -/

namespace Sys2Proof

/-- The same command on another occasion. -/
def Instr.onOccasion (i : Instr) (o : Occasion) : Instr :=
  match i with
  | .powerOn _ straps => .powerOn o straps
  | .resetNLow _ => .resetNLow o
  | .resetNHigh _ straps => .resetNHigh o straps
  | .configurationLoadEnd _ image => .configurationLoadEnd o image
  | .transactionBegin _ => .transactionBegin o
  | .transactionEnd _ mosi => .transactionEnd o mosi
  | .unknown _ code => .unknown o code
  | .readStation _ => .readStation o
  | .readLine _ => .readLine o
  | .readPeer _ n => .readPeer o n
  | .readZones _ => .readZones o
  | .readTrip _ z => .readTrip o z
  | .readRail _ r => .readRail o r
  | .takeRecord _ => .takeRecord o
  | .setDemand _ mask => .setDemand o mask
  | .clearZone _ z => .clearZone o z
  | .ackFlags _ mask => .ackFlags o mask
  | .setAlertMask _ mask => .setAlertMask o mask
  | .resumeLine _ => .resumeLine o
  | .restart _ => .restart o
  | .reload _ straps => .reload o straps
  | .reinitialisation _ straps => .reinitialisation o straps
  | .demandPinChange _ pin => .demandPinChange o pin
  | .demandPinTaken _ pin => .demandPinTaken o pin
  | .sample _ counts pg => .sample o counts pg
  | .settleTimerExpiry _ r => .settleTimerExpiry o r
  | .rampTimeout _ r => .rampTimeout o r
  | .drainForced _ r => .drainForced o r
  | .drainContinued _ r => .drainContinued o r
  | .dischargeTimeout _ r => .dischargeTimeout o r
  | .pgLost _ r => .pgLost o r
  | .slotBoundary _ => .slotBoundary o
  | .frameBuild _ => .frameBuild o
  | .collision _ => .collision o
  | .ownFrameEnd _ => .ownFrameEnd o
  | .coldStart _ => .coldStart o
  | .frameStart _ => .frameStart o
  | .frameReceived _ bytes => .frameReceived o bytes
  | .receptionGap _ bytes => .receptionGap o bytes

end Sys2Proof

namespace Sys2Proof.Laws.OccasionFree
open Sys2Proof

/-- The occasion of a command and its own operands are independent: moved to another occasion the command carries that
occasion, its operands fit as before, and moved back it is the command it was. -/
def Statement (i : Instr) : Prop :=
  ∀ o : Occasion,
    (i.onOccasion o).occasion = o ∧ (i.onOccasion o).operandsFit = i.operandsFit ∧
    (i.onOccasion o).onOccasion i.occasion = i

theorem powerOn (o : Occasion) (straps : BitVec 5) : Statement (.powerOn o straps) :=
  fun _ => ⟨rfl, rfl, rfl⟩

theorem resetNLow (o : Occasion) : Statement (.resetNLow o) :=
  fun _ => ⟨rfl, rfl, rfl⟩

theorem resetNHigh (o : Occasion) (straps : BitVec 5) : Statement (.resetNHigh o straps) :=
  fun _ => ⟨rfl, rfl, rfl⟩

theorem configurationLoadEnd (o : Occasion) (image : List Byte) : Statement (.configurationLoadEnd o image) :=
  fun _ => ⟨rfl, rfl, rfl⟩

theorem transactionBegin (o : Occasion) : Statement (.transactionBegin o) :=
  fun _ => ⟨rfl, rfl, rfl⟩

theorem transactionEnd (o : Occasion) (mosi : List Bool) : Statement (.transactionEnd o mosi) :=
  fun _ => ⟨rfl, rfl, rfl⟩

theorem unknown (o : Occasion) (code : Byte) : Statement (.unknown o code) :=
  fun _ => ⟨rfl, rfl, rfl⟩

theorem readStation (o : Occasion) : Statement (.readStation o) :=
  fun _ => ⟨rfl, rfl, rfl⟩

theorem readLine (o : Occasion) : Statement (.readLine o) :=
  fun _ => ⟨rfl, rfl, rfl⟩

theorem readPeer (o : Occasion) (n : Byte) : Statement (.readPeer o n) :=
  fun _ => ⟨rfl, rfl, rfl⟩

theorem readZones (o : Occasion) : Statement (.readZones o) :=
  fun _ => ⟨rfl, rfl, rfl⟩

theorem readTrip (o : Occasion) (z : Byte) : Statement (.readTrip o z) :=
  fun _ => ⟨rfl, rfl, rfl⟩

theorem readRail (o : Occasion) (r : Byte) : Statement (.readRail o r) :=
  fun _ => ⟨rfl, rfl, rfl⟩

theorem takeRecord (o : Occasion) : Statement (.takeRecord o) :=
  fun _ => ⟨rfl, rfl, rfl⟩

theorem setDemand (o : Occasion) (mask : Byte) : Statement (.setDemand o mask) :=
  fun _ => ⟨rfl, rfl, rfl⟩

theorem clearZone (o : Occasion) (z : Byte) : Statement (.clearZone o z) :=
  fun _ => ⟨rfl, rfl, rfl⟩

theorem ackFlags (o : Occasion) (mask : Half) : Statement (.ackFlags o mask) :=
  fun _ => ⟨rfl, rfl, rfl⟩

theorem setAlertMask (o : Occasion) (mask : Half) : Statement (.setAlertMask o mask) :=
  fun _ => ⟨rfl, rfl, rfl⟩

theorem resumeLine (o : Occasion) : Statement (.resumeLine o) :=
  fun _ => ⟨rfl, rfl, rfl⟩

theorem restart (o : Occasion) : Statement (.restart o) :=
  fun _ => ⟨rfl, rfl, rfl⟩

theorem reload (o : Occasion) (straps : BitVec 5) : Statement (.reload o straps) :=
  fun _ => ⟨rfl, rfl, rfl⟩

theorem reinitialisation (o : Occasion) (straps : BitVec 5) : Statement (.reinitialisation o straps) :=
  fun _ => ⟨rfl, rfl, rfl⟩

theorem demandPinChange (o : Occasion) (pin : DemPin) : Statement (.demandPinChange o pin) :=
  fun _ => ⟨rfl, rfl, rfl⟩

theorem demandPinTaken (o : Occasion) (pin : DemPin) : Statement (.demandPinTaken o pin) :=
  fun _ => ⟨rfl, rfl, rfl⟩

theorem sample (o : Occasion) (counts : Four (BitVec 12)) (pg : Four Bool) : Statement (.sample o counts pg) :=
  fun _ => ⟨rfl, rfl, rfl⟩

theorem settleTimerExpiry (o : Occasion) (r : RailIx) : Statement (.settleTimerExpiry o r) :=
  fun _ => ⟨rfl, rfl, rfl⟩

theorem rampTimeout (o : Occasion) (r : RailIx) : Statement (.rampTimeout o r) :=
  fun _ => ⟨rfl, rfl, rfl⟩

theorem drainForced (o : Occasion) (r : RailIx) : Statement (.drainForced o r) :=
  fun _ => ⟨rfl, rfl, rfl⟩

theorem drainContinued (o : Occasion) (r : RailIx) : Statement (.drainContinued o r) :=
  fun _ => ⟨rfl, rfl, rfl⟩

theorem dischargeTimeout (o : Occasion) (r : RailIx) : Statement (.dischargeTimeout o r) :=
  fun _ => ⟨rfl, rfl, rfl⟩

theorem pgLost (o : Occasion) (r : RailIx) : Statement (.pgLost o r) :=
  fun _ => ⟨rfl, rfl, rfl⟩

theorem slotBoundary (o : Occasion) : Statement (.slotBoundary o) :=
  fun _ => ⟨rfl, rfl, rfl⟩

theorem frameBuild (o : Occasion) : Statement (.frameBuild o) :=
  fun _ => ⟨rfl, rfl, rfl⟩

theorem collision (o : Occasion) : Statement (.collision o) :=
  fun _ => ⟨rfl, rfl, rfl⟩

theorem ownFrameEnd (o : Occasion) : Statement (.ownFrameEnd o) :=
  fun _ => ⟨rfl, rfl, rfl⟩

theorem coldStart (o : Occasion) : Statement (.coldStart o) :=
  fun _ => ⟨rfl, rfl, rfl⟩

theorem frameStart (o : Occasion) : Statement (.frameStart o) :=
  fun _ => ⟨rfl, rfl, rfl⟩

theorem frameReceived (o : Occasion) (bytes : List RxByte) : Statement (.frameReceived o bytes) :=
  fun _ => ⟨rfl, rfl, rfl⟩

theorem receptionGap (o : Occasion) (bytes : List RxByte) : Statement (.receptionGap o bytes) :=
  fun _ => ⟨rfl, rfl, rfl⟩

end Sys2Proof.Laws.OccasionFree
end

