-- ==== Sys2Proof/Laws/Zones.lean ====
section
/-! SUPPORT. Laws/Zones.lean: what the entry of a rail into FAULT does, with its consequences (R29, R82, R83, R70). -/

namespace Sys2Proof.Machine
open Sys2Proof

/-- A rail in FAULT is not taken down. -/
theorem Rail.takenDown_fault (x : Rail) (c : RailConfig) (k : FallCause) (t : Nat) (h : x.state = .fault) :
    x.takenDown c k t = x := by
  simp [Rail.takenDown, h]

/-- A rail in FALLING or FAULT is not taken down. -/
theorem Rail.takenDown_still (x : Rail) (c : RailConfig) (k : FallCause) (t : Nat)
    (h : x.state = .falling ∨ x.state = .fault) : x.takenDown c k t = x := by
  rcases h with h | h <;> simp [Rail.takenDown, h]

/-- A rail taken down is in OFF, FALLING or FAULT. -/
theorem Rail.takenDown_state (x : Rail) (c : RailConfig) (k : FallCause) (t : Nat) :
    (x.takenDown c k t).state = .off ∨ (x.takenDown c k t).state = .falling ∨ (x.takenDown c k t).state = .fault := by
  unfold Rail.takenDown
  cases h : x.state <;> simp [h]

/-- The first four steps of R29. -/
def State.faulted (s : State) (r : RailIx) (k : FaultKind) : State :=
  ((s.putRail r { (s.rails.get r).entered .fault s.now with faultKind := k }
      (s.monitor.rails.get r).restarted).queueRecord
    (s.makeRecord r .fault (.kind k) (s.widthSince (s.rails.get r).since) false)).setFlag .railFault

theorem State.enterFault_eq (s : State) (c : RailConfig) (r : RailIx) (k : FaultKind) :
    s.enterFault c r k =
      if c.trip then (s.faulted r k).localTrip c.zone (s.tripRecordOf r k) else s.faulted r k := by
  unfold State.enterFault State.faulted
  simp [State.putRail, State.setRail, State.setMonitor, State.enter_eq, Rail.entered, Monitor.restarted,
    State.makeRecord, State.tripRecordOf, State.own, State.shelfSlot, State.shelfOffset]

/-- The entry of a tripped zone's record (R82). -/
def Zone.tripped (e : Zone) (t : TripRecord) : Zone :=
  { e with
    condition := .tripped
    record := some (match e.condition with | .normal => t | .tripped => mergeRecord e.record t) }

theorem State.downRail_congr {s t : State} (h : t.startup = s.startup) (hr : t.rails = s.rails) (hn : t.now = s.now)
    (k : FallCause) (which : RailConfig → Bool) : t.downRail k which = s.downRail k which := by
  funext r
  simp [State.downRail, State.fittedConfig_congr h, hr, hn]

theorem State.downMonitor_congr {s t : State} (h : t.startup = s.startup) (hr : t.rails = s.rails)
    (hm : t.monitor = s.monitor) (which : RailConfig → Bool) : t.downMonitor which = s.downMonitor which := by
  funext r
  simp [State.downMonitor, State.fittedConfig_congr h, hr, hm]

/-- The state after a local trip's own changes, before the rails of the zone are moved. -/
def State.zoneTripped (s : State) (z : ZoneIx) (t : TripRecord) : State :=
  { s with
    zones := { s.zones with entries := s.zones.entries.set z ((s.zones.entries.get z).tripped t) }
    port := { s.port with
      flags := s.port.flags |||
        (if (s.zones.entries.get z).condition = .normal then AlertFlag.bit .zoneTripped else 0) } }

/-- All that a local trip does. -/
theorem State.localTrip_eq (s : State) (z : ZoneIx) (t : TripRecord) :
    s.localTrip z t =
      { s.zoneTripped z t with
        rails := Four.of (s.downRail .trip (fun c => decide (c.zone = z)))
        monitor := { s.monitor with rails := Four.of (s.downMonitor (fun c => decide (c.zone = z))) } } := by
  have all : s.localTrip z t = (s.zoneTripped z t).takeDownAll .trip (fun c => decide (c.zone = z)) := by
    unfold State.localTrip State.zoneTripped
    cases h : (s.zones.entries.get z).condition <;> simp [Zone.tripped, h, State.setZone, State.setFlag]
  have a : (s.zoneTripped z t).startup = s.startup := rfl
  have b : (s.zoneTripped z t).rails = s.rails := rfl
  have m : (s.zoneTripped z t).monitor = s.monitor := rfl
  have n : (s.zoneTripped z t).now = s.now := rfl
  rw [all, State.takeDownAll_eq, State.downRail_congr a b n, State.downMonitor_congr a b m, m]

/-- A flag that a state and its successor by or-ing flags share. -/
theorem State.flagSet_or {s t : State} {f : AlertFlag} (w : BitVec 9) (h : t.port.flags = s.port.flags ||| w)
    (k : s.flagSet f = true) : t.flagSet f = true := by
  have m : s.MovesTo { s with port := { s.port with flags := s.port.flags ||| w } } :=
    { State.MovesTo.refl s with port := ⟨w, rfl⟩ }
  have := m.flagSet k
  simpa [State.flagSet, h] using this

/-- The queue and the flags after a record depend on the queue and the flags before alone. -/
theorem State.queueRecord_congr {s t : State} (hr : t.records = s.records) (hp : t.port = s.port) (x : TimingRecord) :
    (t.queueRecord x).records = (s.queueRecord x).records ∧ (t.queueRecord x).port = (s.queueRecord x).port := by
  unfold State.queueRecord
  rw [hr]
  split <;> simp [State.setFlagIf_eq, State.setFlag, hp]

/-- The monitor record of a rail taken down is started again exactly when the rail changed state. -/
theorem Monitor.takenDown_eq (m : Monitor) (x : Rail) (c : RailConfig) (k : FallCause) (t : Nat) :
    m.takenDown x = if (x.takenDown c k t).state ≠ x.state then m.restarted else m := by
  unfold Monitor.takenDown Rail.takenDown
  cases h : x.state <;> simp [h]

/-- What the first four steps of R29 do. -/
theorem State.faulted_eq (s : State) (r : RailIx) (k : FaultKind) :
    s.faulted r k =
      { s with
        rails := s.rails.set r { (s.rails.get r).entered .fault s.now with faultKind := k }
        monitor := { s.monitor with rails := s.monitor.rails.set r (s.monitor.rails.get r).restarted }
        records := (s.queueRecord (s.faultRecord r k)).records
        port := { s.port with flags := (s.queueRecord (s.faultRecord r k)).port.flags ||| 0x001 } } := by
  obtain ⟨hrec, hport⟩ := State.queueRecord_congr (s := s)
    (t := s.putRail r { (s.rails.get r).entered .fault s.now with faultKind := k } (s.monitor.rails.get r).restarted)
    rfl rfl (s.faultRecord r k)
  have e : s.makeRecord r .fault (.kind k) (s.widthSince (s.rails.get r).since) false = s.faultRecord r k := rfl
  unfold State.faulted
  rw [e, State.queueRecord_eq, hrec, hport]
  rfl

/-- All that the entry of a fitted rail into FAULT does before the moves that follow. -/
theorem State.enterFault_entered {s : State} {r : RailIx} {c : RailConfig} (hc : s.fittedConfig r = some c)
    (k : FaultKind) : s.enterFault c r k = s.faultEntered c r k := by
  rw [State.enterFault_eq]
  by_cases ht : c.trip = true
  · have hf (q : RailIx) : (s.faulted r k).fittedConfig q = s.fittedConfig q :=
      State.fittedConfig_congr (by rw [State.faulted_eq]) q
    have hr : Four.of ((s.faulted r k).downRail .trip (fun d => decide (d.zone = c.zone))) =
        (s.faultEntered c r k).rails := by
      refine Four.ext_get fun q => ?_
      simp only [Four.get_of, State.downRail, hf, State.faultEntered, ht, true_and]
      by_cases e : q = r
      · subst e
        simp [hc, State.faulted_eq, Rail.takenDown, Rail.entered]
      · simp only [State.faulted_eq, Four.get_set_other _ _ e, if_neg e, decide_eq_true_eq]
        all_goals cases s.fittedConfig q <;> rfl
    have hm : Four.of ((s.faulted r k).downMonitor (fun d => decide (d.zone = c.zone))) =
        (s.faultEntered c r k).monitor.rails := by
      refine Four.ext_get fun q => ?_
      simp only [Four.get_of, State.downMonitor, hf, State.faultEntered, ht, true_and]
      by_cases e : q = r
      · subst e
        simp [hc, State.faulted_eq, Monitor.takenDown, Rail.entered, Monitor.restarted]
      · simp only [State.faulted_eq, Four.get_set_other _ _ e, decide_eq_true_eq, e, false_or]
        cases hq : s.fittedConfig q with
        | none => simp
        | some d =>
          by_cases hz : d.zone = c.zone
          · simp only [hz, if_true]
            rw [Monitor.takenDown_eq _ _ d .trip s.now]
            rfl
          · simp [hz]
    rw [if_pos ht, State.localTrip_eq, hr, hm]
    simp only [State.zoneTripped, State.faulted_eq, State.faultEntered, ht, true_and, if_true]
    rfl
  · have hr : s.rails.set r { (s.rails.get r).entered .fault s.now with faultKind := k } =
        (s.faultEntered c r k).rails := by
      refine Four.ext_get fun q => ?_
      simp only [State.faultEntered, Four.get_of, Four.get_set, ht]
      split
      · rename_i e
        subst e
        rfl
      · split <;> rfl
    have hm : s.monitor.rails.set r (s.monitor.rails.get r).restarted = (s.faultEntered c r k).monitor.rails := by
      refine Four.ext_get fun q => ?_
      simp only [State.faultEntered, Four.get_of, Four.get_set, ht]
      by_cases e : q = r
      · subst e
        simp [Monitor.restarted]
      · cases s.fittedConfig q <;> simp [e]
    rw [if_neg ht, State.faulted_eq, hr, hm]
    simp [State.faultEntered, ht]

/-- A rail's entry into FAULT with the moves that follow: `State.FaultTaken` says all of it. -/
theorem State.enterFault_settle {s : State} {r : RailIx} {c : RailConfig} (hc : s.fittedConfig r = some c)
    (k : FaultKind) (o : Occasion) : State.FaultTaken o s c r k ((s.enterFault c r k).settle o) := by
  rw [State.enterFault_entered hc]
  have hset := State.settle_settlesTo (s.faultEntered c r k) o
  have hm := hset.moves
  have hr : (s.faultEntered c r k).rails.get r =
      { (s.rails.get r).entered .fault s.now with faultKind := k } := by
    simp [State.faultEntered, Rail.entered]
  have hq (q : RailIx) (e : q ≠ r) : (s.faultEntered c r k).rails.get q =
      match s.fittedConfig q with
      | some d => if c.trip = true ∧ d.zone = c.zone then (s.rails.get q).takenDown d .trip s.now else s.rails.get q
      | none => s.rails.get q := by
    simp only [State.faultEntered, Four.get_of, if_neg e]
    all_goals cases s.fittedConfig q <;> rfl
  obtain ⟨w, hw⟩ : ∃ w, (s.queueRecord (s.faultRecord r k)).port.flags = s.port.flags ||| w := by
    rcases Nat.lt_or_ge s.records.records.length 16 with h | h
    · exact ⟨_, (State.queueRecord_room s _ h).2⟩
    · exact ⟨_, (State.queueRecord_full s _ h).2⟩
  have hst := hm.still r (.inr (.inr (by simp [hr, Rail.entered])))
  have still (q : RailIx) (e : q ≠ r) (h : s.fittedConfig q = none ∨ (s.rails.get q).state = .falling ∨
      (s.rails.get q).state = .fault) : (s.faultEntered c r k).rails.get q = s.rails.get q ∧
      (s.faultEntered c r k).monitor.rails.get q = s.monitor.rails.get q := by
    have a : (s.faultEntered c r k).rails.get q = s.rails.get q := by
      rw [hq q e]
      rcases h with h | h | h
      · simp [h]
      · cases s.fittedConfig q <;> simp [Rail.takenDown_still _ _ _ _ (.inl h)]
      · cases s.fittedConfig q <;> simp [Rail.takenDown_still _ _ _ _ (.inr h)]
    refine ⟨a, ?_⟩
    simp only [State.faultEntered, Four.get_of, if_neg e] at a ⊢
    simp [e, a]
  have bit (a b : BitVec 9) (f : AlertFlag) :
      ({ s with port := { s.port with flags := a ||| f.bit ||| b } } : State).flagSet f = true :=
    State.flagSet_or (s := State.setFlag { s with port := { s.port with flags := a } } f) b rfl
      (State.flagSet_setFlag _ f)
  constructor
  case settles => exact hset
  case rail => exact hst.1
  case monitor => exact hst.2
  case alert => exact hm.flagSet (bit _ _ .railFault)
  case record => exact hm.records
  case zones => exact hm.zones
  case tripped =>
    intro ht hn
    refine hm.flagSet ?_
    have := bit ((s.queueRecord (s.faultRecord r k)).port.flags ||| 0x001) 0 .zoneTripped
    simpa [State.flagSet, State.faultEntered, ht, hn, AlertFlag.bit] using this
  case down =>
    intro ht q d e hd hz'
    have hwq : (s.faultEntered c r k).rails.get q = (s.rails.get q).takenDown d .trip s.now := by
      simp [hq q e, hd, ht, hz']
    rw [← hwq]
    rcases Rail.takenDown_state (s.rails.get q) d .trip s.now with h | h | h <;> rw [← hwq] at h
    · refine (State.settle_sameRail_off (s := s.faultEntered c r k) (c := d) hd h ?_ o).1
      simp [State.gateOpen, State.zoneNormal, State.faultEntered, State.trippedBy, ht, hz']
    · exact (hm.still q (.inr (.inl h))).1
    · exact (hm.still q (.inr (.inr h))).1
  case frame =>
    obtain ⟨x, hx⟩ := hm.port
    refine ⟨hm.pending, hm.now, hm.startup, hm.peers, hm.line, hm.receiver, hm.nextSample, ?_⟩
    rw [hx]
    simp only [State.faultEntered, hw, BitVec.or_assoc]
    exact ⟨_, rfl⟩
  case still =>
    intro q e h
    obtain ⟨a, b⟩ := still q e h
    have := hm.still q (by
      rcases h with h | h | h
      · exact .inl h
      · exact .inr (.inl (by rw [a, h]))
      · exact .inr (.inr (by rw [a, h])))
    exact ⟨this.1.trans a, this.2.trans b⟩

end Sys2Proof.Machine
end

