-- ==== Sys2Proof/Tests/Slice0.lean ====
section
/-! SUPPORT. Tests/Slice0.lean: the model's own tests on fixed values, and for every statement with hypotheses a witness
that meets them, each clause at a boundary of its range. The expected values come from the manual's worked examples
where a comment names one, and from its tables by hand otherwise. -/

namespace Sys2Proof.Tests
open Sys2Proof Sys2Proof.Machine

set_option Elab.async false

/-! ### Formats and codes -/

/-- R198's worked value: the nine ASCII digits. -/
theorem test_crc_digits : crc [0x31, 0x32, 0x33, 0x34, 0x35, 0x36, 0x37, 0x38, 0x39] = 0x29B1 := by decide +kernel

/-- 11.2's example: rails GOOD, DRAINING, OFF, FAULT give 0E2Ch, and the ignored bits do not matter (R197). -/
theorem test_rail_states_field : railsField ⟨.good, .draining, .off, .fault⟩ = 0x0E2C ∧
    railsOfField 0xFE2C = ⟨.good, .draining, .off, .fault⟩ := by decide +kernel

/-- Rail 5.2 is 16h; bit 7 of a reference is ignored (11.1, R197). -/
theorem test_rail_reference : Ref.toByte ⟨5, .r2⟩ = 0x16 ∧ Ref.ofByte 0x96 = ⟨5, .r2⟩ := by decide +kernel

/-- The power-on alert mask is the flags Table 55 enables. -/
theorem test_power_on_mask : powerOnMask =
    AlertFlag.bit .railFault ||| AlertFlag.bit .zoneTripped ||| AlertFlag.bit .lineMuted |||
      AlertFlag.bit .recordsOverflow ||| AlertFlag.bit .configFault := by decide +kernel

/-- Two configured rails on station 1: 1.0 names 0.0, 1.1 names 1.0 (Tables 63 and 64, written out by hand). -/
def imageBytes (n crcHigh crcLow : Byte) : List Byte :=
  [0x51, 0x5A, 0x17, n, 0x02, 0x04] ++
  [0x03, 0x00, 0x07, 0xD0, 0x00, 0x64, 0x00, 0xC8, 0x03, 0x00, 0x00, 0x05, 0x00, 0x32, 0x00, 0x50, 0x00, 0x1E, 0x01,
   0x00, 0x00, 0x00, 0x00, 0x00, 0x00] ++
  [0x09, 0x01, 0x05, 0xDC, 0x00, 0x50, 0x00, 0x96, 0x02, 0x14, 0x00, 0x00, 0x00, 0x28, 0x00, 0x00, 0x00, 0x19, 0x01,
   0x04, 0x00, 0x00, 0x00, 0x00, 0x00] ++ List.replicate 50 0x00 ++ [crcHigh, crcLow]

/-- The image with shelf size 3 and its right CRC (computed apart from the model). -/
def goodImage : List Byte := imageBytes 0x03 0xFF 0xBC

def railZero : RailConfig :=
  { fitted := true, trip := true, policy := .follow, pgUsed := false, zone := .z0, nominal := 2000, magnitude := 100,
    dischargeLevel := 200, persistence := 3, pgDeglitch := 0, settleDelay := 5, rampTimeout := 50, drainTimeout := 80,
    dischargeTimeout := 30, prerequisites := [⟨0, .r0⟩] }

def railOne : RailConfig :=
  { fitted := true, trip := false, policy := .follow, pgUsed := true, zone := .z1, nominal := 1500, magnitude := 80,
    dischargeLevel := 150, persistence := 2, pgDeglitch := 20, settleDelay := 0, rampTimeout := 40, drainTimeout := 0,
    dischargeTimeout := 25, prerequisites := [⟨1, .r0⟩] }

def bare : RailConfig :=
  { fitted := false, trip := false, policy := .follow, pgUsed := false, zone := .z0, nominal := 0, magnitude := 0,
    dischargeLevel := 0, persistence := 0, pgDeglitch := 0, settleDelay := 0, rampTimeout := 0, drainTimeout := 0,
    dischargeTimeout := 0, prerequisites := [] }

def image : Image :=
  { signature := 0x5A17, shelfSize := 3, dem0Mask := 0x02, dem1Mask := 0x04, rails := ⟨railZero, railOne, bare, bare⟩ }

set_option maxRecDepth 20000 in
theorem test_image_accepted : judgeImage 1 goodImage = .accepted image := by decide +kernel

/-! ### The states the tests start from -/

/-- Station 1 of a shelf of 3 with that image loaded, ACTIVE in step with the shelf, a command being taken, no peer
heard. -/
def running : State :=
  { State.reset with
    startup := { State.reset.startup with station := 1, config := some image, load := .idle }
    rails := ⟨{ Rail.cleared with remoteGood := false, remoteUp := false }, Rail.cleared, Rail.cleared, Rail.cleared⟩
    peers := List.replicate 3 Peer.cleared
    line := { LineAccess.cleared with phase := .active, slotTimer := some ⟨1, 0⟩, timingHeld := true }
    receiver := { Receiver.cleared with reception := .waiting none }
    port := { State.reset.port with selectLow := true, transaction := .command } }

/-- The same with rail 0 in a state. -/
def railAt (st : RailState) : State :=
  running.setRail .r0 { running.rails.r0 with state := st, remoteGood := true, remoteUp := true }

/-- The same with zone 0 TRIPPED by rail 1.0's WINDOW of Table 70. -/
def tripOfTable70 : TripRecord :=
  { station := 1, rail := .r0, kind := .window, cycle := 100, slot := 2, offset := 300 }

def trippedZ0 : State :=
  running.setZone .z0 { Zone.cleared with condition := .tripped, record := some tripOfTable70 }

/-- In a line phase. -/
def inPhase (p : LinePhase) : State := { running with line := { running.line with phase := p } }

/-- The next state of a command, when there is one. -/
def run (c : Instr) (s : State) : Option State :=
  match exec c s with
  | .next t => some t
  | _ => none

/-- What the port answers to a command. -/
def response (c : Instr) (s : State) : Option (List Byte) := (run c s).map (·.port.response)

/-! ### Commands, one step each -/

theorem test_power_on : (run (.powerOn {} 5) running).map (fun t => (t.startup.station, t.startup.load, t.peers)) =
    some (5, .loading 0, []) := by decide +kernel

theorem test_reset_low : (run (.resetNLow {}) (railAt .good)).map (fun t => (t.enable .r0, t.line.phase)) =
    some (false, .start) := by decide +kernel

theorem test_reset_high : (run (.resetNLow {}) running >>= run (.resetNHigh {} 3)).map (·.startup.cause) =
    some .resetPin := by decide +kernel

theorem test_load_missing_memory :
    (run (.configurationLoadEnd {} []) State.reset).map (fun t => (t.now, t.line.phase, t.startup.error, t.alertLow)) =
      some (7104, .unconfigured, .badTag, true) := by decide +kernel

theorem test_transaction_begin :
    (run (.transactionBegin {}) { running with port := { running.port with selectLow := false } }).map
      (·.port.transaction) = some .command := by decide +kernel

theorem test_transaction_cut : (run (.transactionEnd {} [true]) running).map (·.port.lastResult) = some .truncated ∧
    (run (.transactionEnd {} []) running).map (·.port.lastResult) = some .ok := by decide +kernel

/-- READ_PEER 1 bit by bit: COMMAND up to the eighth bit, ARGUMENTS up to the sixteenth, and cut off in each (R180). -/
theorem test_transaction_states :
    let bits := serialBits [0x12, 0x01]
    running.transactionAfter (bits.take 7) = .command ∧ running.transactionAfter (bits.take 8) = .arguments ∧
    running.transactionAfter (bits.take 15) = .arguments ∧ running.transactionAfter bits = .response ∧
    (run (.transactionEnd {} (bits.take 15)) running).map (·.port.lastResult) = some .truncated := by decide +kernel

/-- READ_STATION is 10h, bits 0001 0000 on BP_MOSI; the result OK shifts out as 0000 0001 and then the payload's first
bit; with BP_CS high BP_MISO is not driven (R180). -/
theorem test_serial_bits :
    serialBits [0x10] = [false, false, false, true, false, false, false, false] ∧
    (run (.readStation {}) running).map (fun t => (List.range 10).map t.misoLevel) =
      some [some false, some false, some false, some false, some false, some false, some false, some false, some true,
        some false] ∧ State.reset.misoLevel 3 = none := by decide +kernel

/-- Read command 03h at the start of a load: its seventh bit is a 1, set up while CM_SCK is low (R167). -/
theorem test_memory_levels :
    ({ State.reset with now := 48 } : State).memoryData = some true ∧
    ({ State.reset with now := 47 } : State).memoryData = some false ∧
    ({ State.reset with now := 48 } : State).memoryClock = false ∧
    ({ State.reset with now := 52 } : State).memoryClock = true ∧
    ({ State.reset with now := 7104 } : State).memoryData = none := by decide +kernel

theorem test_unknown : response (.unknown {} 0x16) running = some [0x06] := by decide +kernel

/-- Phase ACTIVE, station 1 of 3, restart cause POWER_ON, flags 0, mask 01A3h, last result OK (Table 66 by hand). -/
theorem test_read_station : response (.readStation {}) running =
    some [0x01, 0x03, 0x00, 0x01, 0x03, 0x00, 0x00, 0x00, 0x00, 0x00, 0x00, 0x00, 0x00, 0x00, 0x01, 0xA3, 0x01] := by
  decide +kernel

theorem test_read_line :
    response (.readLine {}) { running with receiver := { running.receiver with lastError := .badCheck, receiveErrors := 9 } } =
      some [0x01, 0x05, 0x09, 0x00, 0x00, 0x00, 0x00] := by decide +kernel

theorem test_read_peer_range : response (.readPeer {} 3) running = some [0x05] ∧
    (response (.readPeer {} 2) running).map List.length = some 17 := by decide +kernel

theorem test_read_zones : response (.readZones {}) trippedZ0 =
    some [0x01, 0, 0, 0, 0, 0, 0, 0, 0, 0x01, 0x00, 0x01] := by decide +kernel

theorem test_read_trip : response (.readTrip {} 0) trippedZ0 =
    some [0x01, 0x01, 0x20, 0x00, 0x64, 0x02, 0x01, 0x2C] := by decide +kernel

/-- 11.5's worked payload: GOOD, DEMAND, sample 1988, PG high, held. -/
theorem test_read_rail :
    response (.readRail {} 0)
      (((railAt .good).setRail .r0
          { Rail.cleared with state := .good, fallCause := .demand, peerHeld := true }).setMonitor .r0
        { Monitor.cleared with lastSample := 1988, pg := true }) =
      some [0x01, 0x04, 0x00, 0x01, 0x07, 0xC4, 0x01, 0x00, 0x01] := by decide +kernel

theorem test_take_record :
    response (.takeRecord {}) (running.queueRecord
      { rail := .r2, kind := .drainForced, detail := .none, width := 80, continued := false, cycle := 206 }) =
      some [0x01, 0x02, 0x03, 0x00, 0x00, 0x50, 0x00, 0x00, 0xCE, 0x00, 0x00] ∧
    response (.takeRecord {}) running = some (0x02 :: List.replicate 10 0) := by decide +kernel

/-- Peer 0's entry with its rail 0 in a state, PRESENT and nothing else reported. -/
def peerZero (st : RailState) : Peer := { Peer.cleared with presence := .present, rails := ⟨st, .off, .off, .off⟩ }

/-- Demand for Z0 with the prerequisite reported GOOD: OFF to SETTLING in one event (R8). -/
theorem test_set_demand : (run (.setDemand {} 0x01)
      { railAt .off with peers := [peerZero .good, Peer.cleared, Peer.cleared] }).map
    (fun t => (t.zones.ownDemand, (t.rails.get .r0).state, (t.rails.get .r0).settle)) =
      some (0x01, .settling, some ⟨0, 5⟩) := by decide +kernel

/-- Demand moves from Z0 to Z1, where rail 1 needs rail 0: rail 1 first goes through WAITING to RAMPING at once and holds
rail 0 in DRAINING; rail 0 first falls, and rail 1 waits (R8, R40). -/
theorem test_demand_moves_on :
    let s := { railAt .good with peers := [peerZero .good, Peer.cleared, Peer.cleared] }
    [[RailIx.r1], [.r0]].map (fun l => (run (.setDemand { rails := l } 0x02) s).map
      (fun t => (t.rails.r0.state, t.rails.r1.state))) =
      [some (.draining, .ramping), some (.falling, .waiting)] := by decide +kernel

/-- Demand judged first from a report that takes the prerequisite away: the rail waits, and is not started for an
instant (R8, R9). -/
theorem test_stale_prerequisite :
    let s := { railAt .off with
      startup := { running.startup with config := some { image with rails := ⟨{ railZero with settleDelay := 0 },
        railOne, bare, bare⟩ } }
      peers := [{ peerZero .off with demand := 1 }, Peer.cleared, Peer.cleared] }
    (s.judgeAll { views := [.demand] }).rails.r0.state = .waiting := by decide +kernel

theorem test_clear_zone : (run (.clearZone {} 0) (trippedZ0.setRail .r0 (railAt .fault).rails.r0)).map
    (fun t => (t.zones.entries.z0.generation, t.zones.entries.z0.record, (t.rails.get .r0).state)) =
      some (1, none, .off) := by decide +kernel

theorem test_ack_flags :
    (run (.ackFlags {} 0xFE02) { running with port := { running.port with flags := 0x103 } }).map (·.port.flags) =
      some 0x101 := by decide +kernel

theorem test_set_alert_mask : (run (.setAlertMask {} 0xFF40) running).map (·.port.mask) = some 0x140 := by
  decide +kernel

theorem test_resume_line_state : response (.resumeLine {}) running = some [0x04] := by decide +kernel

theorem test_resume_line :
    (run (.resumeLine {}) { running with line := { running.line with phase := .muted } }).map
      (fun t => (t.line.phase, t.line.timingHeld)) = some (.listen, false) := by decide +kernel

theorem test_restart : (run (.restart {}) (railAt .ramping)).map
    (fun t => ((t.rails.get .r0).state, (t.rails.get .r0).fallCause, t.line.leaving)) =
      some (.falling, .restart, .due) := by decide +kernel

theorem test_reload :
    (run (.reload {} 2)
      { State.reset with
        line := { LineAccess.cleared with phase := .unconfigured }
        startup := { State.reset.startup with load := .idle }
        port := { State.reset.port with transaction := .command } }).map
      (fun t => (t.startup.load, t.line.phase, t.startup.station)) = some (.loading 0, .start, 2) := by decide +kernel

theorem test_reinitialisation :
    (run (.reinitialisation {} 1) { trippedZ0 with startup := { running.startup with restartPending := true } }).map
      (fun t => (t.startup.cause, t.zones.entries.z0.condition, t.startup.restartPending)) =
      some (.command, .normal, true) := by decide +kernel

theorem test_pin_change : (run (.demandPinChange { wait := 7 } .dem1) running).map (fun t => t.zones.dem1) =
    some ⟨true, 7, false⟩ := by decide +kernel

theorem test_pin_taken : (run (.demandPinChange { wait := 7 } .dem1) running >>= run (.demandPinTaken {} .dem1)).map
    (fun t => (t.now, t.zones.ownDemand)) = some (16007, 0x04) := by decide +kernel

/-- The third sample outside is the WINDOW of persistence 3, with its trip (Table 70, first row). -/
theorem test_sample_window :
    (run (.sample {} ⟨2101, 0, 0, 0⟩ ⟨false, false, false, false⟩)
      ((railAt .good).setMonitor .r0 { Monitor.cleared with outside := 2 })).map
      (fun t => (t.now, (t.rails.get .r0).faultKind, t.zones.entries.z0.condition)) =
      some (3200, .window, .tripped) := by decide +kernel

/-- The command 3,201 periods after the last instant is too late for the sample at 3,200 (R52). -/
theorem test_sample_grid : (run (.sample { wait := 3201 } ⟨0, 0, 0, 0⟩ ⟨false, false, false, false⟩) running).map
    (·.now) = some 6400 := by decide +kernel

/-- A count equal to the upper end of the window is inside it, and ends the ramp. -/
theorem test_sample_ramp : (run (.sample {} ⟨2100, 0, 0, 0⟩ ⟨false, false, false, false⟩) (railAt .ramping)).map
    (fun t => t.records.records.map (fun x => (x.kind, x.width))) = some [(.ramp, 2), (.drain, 0)] := by decide +kernel

theorem test_settle_expiry :
    (run (.settleTimerExpiry {} .r0)
      (((railAt .settling).setZone .z0 { Zone.cleared with demanded := true }).setRail .r0
        { Rail.cleared with state := .settling, settle := some ⟨0, 5⟩ })).map
      (fun t => (t.now, t.enable .r0)) = some (8000, true) := by decide +kernel

theorem test_ramp_timeout :
    (run (.rampTimeout {} .r0)
      ((railAt .ramping).setRail .r0 { Rail.cleared with state := .ramping, ramp := some ⟨0, 50⟩ })).map
      (fun t => (t.records.records.map (·.width), (t.rails.get .r0).faultKind)) =
      some ([50], .rampTimeout) := by decide +kernel

/-- Table 71: a held drain forced after its timeout of 80 ticks. -/
theorem test_drain_forced :
    (run (.drainForced {} .r0)
      ((railAt .draining).setRail .r0
        { Rail.cleared with state := .draining, drain := some ⟨0, 80⟩, peerHeld := true })).map
      (fun t => (t.records.records.map (fun x => (x.kind, x.width)), (t.rails.get .r0).fallCause)) =
      some ([(.drainForced, 80)], .demand) := by decide +kernel

theorem test_drain_continued :
    (run (.drainContinued {} .r1)
      (running.setRail .r1 { Rail.cleared with state := .draining, peerHeld := true, drainFrom := 1600 })).map
      (fun t => (t.records.records.map (fun x => (x.width, x.continued)), (t.rails.get .r1).drainFrom)) =
      some ([(65535, true)], 104857600) := by decide +kernel

/-- Table 70 at 4.10 ms: the discharge timer of 20 ticks, width 20, the zone tripped again. -/
theorem test_discharge_timeout :
    (run (.dischargeTimeout {} .r0)
      ((railAt .falling).setRail .r0 { Rail.cleared with state := .falling, discharge := some ⟨0, 20⟩ })).map
      (fun t => (t.records.records.map (·.width), t.zones.entries.z0.condition)) = some ([20], .tripped) := by
  decide +kernel

theorem test_pg_lost :
    (run (.pgLost {} .r1)
      ((running.setRail .r1 { Rail.cleared with state := .good }).setMonitor .r1
        { Monitor.cleared with deglitch := some ⟨0, 20⟩ })).map (fun t => (t.now, (t.rails.get .r1).faultKind)) =
      some (32000, .pgLost) := by decide +kernel

theorem test_slot_boundary : (run (.slotBoundary {})
    { running with line := { running.line with slotTimer := some ⟨2, 0⟩, cycle := 0xFFFF } }).map
    (fun t => (t.line.slotTimer, t.line.cycle)) = some (some ⟨0, 7200⟩, 0) := by decide +kernel

/-- The third miss in a row makes a peer LOST (R107). -/
theorem test_third_miss : (run (.slotBoundary {})
    { running with
      line := { running.line with slotTimer := some ⟨2, 0⟩ }
      peers := List.replicate 3 { Peer.cleared with presence := .present, misses := 2 } }).map
    (fun t => (t.peers.map (·.presence), t.port.flags)) = some ([.present, .present, .lost], 0x008) := by decide +kernel

/-- A station with one tripped zone sends 29 bytes, and its frame says so (Table 70 at 1.81 ms). -/
theorem test_frame_build : (run (.frameBuild {}) trippedZ0).map
    (fun t => (t.line.tx.map (fun f => (f.start, f.bytes.length, f.bytes.take 3)), t.zones.lastPart)) =
      some (some (160, 29, [0x96, 0x01, 0x10]), .z0) := by decide +kernel

theorem test_collision :
    (run (.collision {})
      { running with
        line := { running.line with send := .sending, tx := some ⟨[], 160, false⟩ }
        receiver := { running.receiver with consecutive := 2 } }).map
      (fun t => (t.line.phase, t.receiver.muteCause, t.port.flags)) = some (.muted, .collision, 0x020) := by
  decide +kernel

theorem test_own_frame_end :
    (run (.ownFrameEnd {})
      { running with
        line := { running.line with send := .sending, tx := some ⟨List.replicate 21 0, 160, true⟩, leaving := .due } }).map
      (fun t => (t.now, t.line.leaving, t.line.send)) = some (3520, .done, .sending) := by decide +kernel

/-- (3 + 1) × 450 µs of silence. -/
theorem test_cold_start :
    (run (.coldStart {})
      { running with line := { running.line with phase := .listen, timingHeld := false, silence := some 0 } }).map
      (fun t => (t.now, t.line.phase, t.line.slotTimer)) = some (28800, .active, some ⟨1, 28800⟩) := by decide +kernel

/-- A frame start 20 µs after the end of the frame judged is not received but sets the silence timer back; one a period
later is received (R144). -/
theorem test_frame_start_rest :
    let s := { inPhase .listen with
      line := { (inPhase .listen).line with silence := some 0 }
      receiver := { running.receiver with reception := .waiting (some 0) } }
    [320, 321].map (fun w => (run (.frameStart { wait := w }) s).map (fun t => (t.line.silence, t.receiver.reception))) =
      [some (some 320, .waiting (some 0)), some (some 321, .receiving 321)] := by decide +kernel

/-- WAITING begins a frame; RECEIVING goes on with the frame begun at 160 (R142). -/
theorem test_frame_start : (run (.frameStart { wait := 3 }) running).map (·.receiver.reception) =
    some (.receiving 3) ∧
    (run (.frameStart { wait := 3 })
      { running with receiver := { running.receiver with reception := .receiving 160 } }).map (·.receiver.reception) =
      some (.receiving 160) := by decide +kernel

/-! ### Reception, zones and formats -/

/-- Sound stop bits under bytes. -/
def sent (bs : List Byte) : List RxByte := bs.map (fun b => { data := b, stopGood := true })

/-- Station 2's frame of cycle 53: rail 0 GOOD, demand 03h, nothing else; its CRC was computed apart from the model. -/
def frameTwo (flags demand crcHigh crcLow : Byte) : List Byte :=
  [0x96, 0x02, flags, 0x5A, 0x17, 0x00, 0x35, 0x00, 0x04, demand] ++ List.replicate 9 0x00 ++ [crcHigh, crcLow]

/-- Station 2's frame with the trip part of Table 70 for Z0, 29 bytes (CRC computed apart from the model). -/
def framePart : List Byte :=
  [0x96, 0x02, 0x10, 0x5A, 0x17, 0x00, 0x65, 0x00, 0x07, 0x03] ++ List.replicate 8 0x00 ++
  [0x01, 0x00, 0x01, 0x20, 0x00, 0x64, 0x02, 0x01, 0x2C, 0x3C, 0x35]

/-- Receiving a frame that started in slot 2. -/
def receiving (s : State) : State :=
  { s with
    line := { s.line with slotTimer := some ⟨2, 0⟩ }
    receiver := { s.receiver with reception := .receiving 160 } }

theorem test_frame_taken :
    (run (.frameReceived {} (sent (frameTwo 0x00 0x03 0xE6 0xA1))) (receiving running)).map
      (fun t => (t.now, t.peers.map (fun p => (p.presence, p.demand)), t.line.cycle, t.demanded .z1)) =
      some (3520, [(.absent, 0), (.absent, 0), (.present, 3)], 53, true) := by decide +kernel

/-- Table 70 at 2.10 ms: a trip at equal generation reaches the zone with its record; the zone table takes the frame
first here, since this rail's prerequisite is not reported at all. -/
theorem test_trip_part_taken :
    (run (.frameReceived { blocks := [.zoneTable] } (sent framePart)) (receiving (railAt .good))).map
      (fun t => (t.zones.entries.z0.record, (t.rails.get .r0).state, (t.rails.get .r0).fallCause)) =
      some (some tripOfTable70, .falling, .trip) := by decide +kernel

/-- Table 40 at 2.42 ms: 14 bytes of an expected 21, then a gap. -/
theorem test_gap_truncates :
    (run (.receptionGap {} (sent ((frameTwo 0x00 0x03 0xE6 0xA1).take 14))) (receiving running)).map
      (fun t => (t.now, t.receiver.lastError, t.receiver.receiveErrors)) = some (2720, .truncated, 1) := by
  decide +kernel

/-- A LEAVING frame of a PRESENT sender makes it LOST with nothing demanded (R106). -/
theorem test_leaving_taken :
    (run (.frameReceived {} (sent (frameTwo 0x20 0x00 0x6B 0x6C)))
      (receiving { running with peers := List.replicate 3 { Peer.cleared with presence := .present, demand := 1 } })).map
      (fun t => ((t.peers.getD 2 Peer.cleared).presence, (t.peers.getD 2 Peer.cleared).demand, t.port.flags)) =
      some (.lost, 0, 0x008) := by decide +kernel

/-- Table 24, rows 1 to 3: the rotation of trip parts. -/
theorem test_part_rotation :
    let zones (l : List ZoneIx) (last : ZoneIx) : State :=
      l.foldl (fun t z => t.setZone z { Zone.cleared with condition := .tripped, record := some tripOfTable70 })
        { running with zones := { running.zones with lastPart := last } }
    (zones [.z1, .z4] .z7).nextPartZone = some .z1 ∧ (zones [.z1, .z4] .z1).nextPartZone = some .z4 ∧
    (zones [.z1, .z4, .z6] .z4).nextPartZone = some .z6 ∧ (zones [.z1, .z4, .z6] .z6).nextPartZone = some .z1 ∧
    (zones [.z4, .z6] .z1).nextPartZone = some .z4 ∧ (zones [] .z4).nextPartZone = none := by decide +kernel

/-- The line's bits and their cutting, for two bytes. -/
theorem test_line_bits : cutBytes (lineLevels (lineBits [0x96, 0x01])) = sent [0x96, 0x01] := by decide +kernel

/-- Table 52: the codes and their arguments. -/
theorem test_port_bytes : decodePort {} 0 [0x33, 0x01, 0xA3] = some (.setAlertMask {} 0x01A3) ∧
    decodePort {} 0 [0x12] = none ∧ decodePort {} 0 [0x00] = some (.unknown {} 0x00) ∧
    decodePort {} 9 [0x42] = some (.reload {} 9) := by decide +kernel

/-! ### WellFormed -/

theorem test_ill_formed_occasions :
    (Instr.readLine { rails := [.r0, .r1, .r0] }).wellFormed = false ∧
    (Instr.readLine { views := [.holds, .holds] }).wellFormed = false ∧
    (Instr.readLine { blocks := [.lineAccess, .lineAccess] }).wellFormed = false ∧
    (Instr.readLine { rails := [.r3, .r1], views := [.demand], blocks := [.zoneTable] }).wellFormed = true := by
  decide +kernel

theorem test_ill_formed_operands :
    (Instr.configurationLoadEnd {} (List.replicate 107 0)).wellFormed = false ∧
    (Instr.unknown {} 0x10).wellFormed = false ∧
    (Instr.frameReceived {} (sent (framePart.take 28))).wellFormed = false ∧
    (Instr.receptionGap {} (sent framePart)).wellFormed = false := by decide +kernel

theorem test_well_formed_operands :
    (Instr.configurationLoadEnd {} goodImage).wellFormed = true ∧ (Instr.unknown {} 0x16).wellFormed = true ∧
    (Instr.frameReceived {} (sent framePart)).wellFormed = true ∧
    (Instr.receptionGap {} (sent (framePart.take 28))).wellFormed = true := by decide +kernel

/-! ### Witnesses: each statement's hypotheses are met, clause by clause -/

/-- Held in reset by RESET_N. -/
def heldReset : State :=
  { State.reset with startup := { State.reset.startup with load := .idle, resetN := false, inReset := some .resetPin } }

/-- A restart pending. -/
def restarting : State := { running with startup := { running.startup with restartPending := true } }

/-- The first load under way, at station 1. -/
def loading : State := { State.reset with startup := { State.reset.startup with station := 1 } }

/-- Rail 0 SETTLING with its gate open and its prerequisite good. -/
def settling : State :=
  ((railAt .settling).setZone .z0 { Zone.cleared with demanded := true }).setRail .r0
    { Rail.cleared with state := .settling, settle := some ⟨0, 5⟩ }

/-- Only rail 1 is fitted, with no prerequisite, in OFF; its settle delay is `d`. -/
def aloneRail (d : Nat) : State :=
  { running with startup := { running.startup with
      config := some { image with rails := ⟨bare, { railOne with prerequisites := [], settleDelay := d }, bare, bare⟩ } } }

/-- Rail `r` in a state with its last sample, its PG level, its outside count and its deglitch timer. -/
def sampled (r : RailIx) (st : RailState) (v : BitVec 12) (pg : Bool) (n : Nat) (d : Option Timer) : State :=
  (running.setRail r { Rail.cleared with state := st }).setMonitor r ⟨v, pg, n, d⟩

/-- Rail 0 in a state with its prerequisite reported `pre` and zone 0 demanded by the port, NORMAL or TRIPPED; its settle
delay is `d`. -/
def wanted (st : RailState) (pre : RailState) (tripped : Bool) (d : Nat) : State :=
  { running with
    startup := { running.startup with
      config := some { image with rails := ⟨{ railZero with settleDelay := d }, railOne, bare, bare⟩ } }
    rails := running.rails.set .r0
      { Rail.cleared with state := st, remoteGood := decide (pre = .good), remoteUp := pre.up }
    peers := [peerZero pre, Peer.cleared, Peer.cleared]
    zones := { running.zones with
      ownDemand := 0x01
      entries := running.zones.entries.set .z0
        { Zone.cleared with demanded := true, condition := if tripped then .tripped else .normal } }
    port := { running.port with portDemand := 0x01 } }

theorem witness_wanted_viewFresh : (wanted .fault .off true 5).viewFresh ∧ (wanted .falling .good false 0).viewFresh :=
  ⟨⟨by decide +kernel, fun z => by cases z <;> decide +kernel, fun r => by cases r <;> decide +kernel,
     fun r c h => by cases r <;> cases h <;> exact ⟨by decide +kernel, by decide +kernel⟩, fun h => absurd rfl h⟩,
   ⟨by decide +kernel, fun z => by cases z <;> decide +kernel, fun r => by cases r <;> decide +kernel,
     fun r c h => by cases r <;> cases h <;> exact ⟨by decide +kernel, by decide +kernel⟩, fun h => absurd rfl h⟩⟩

theorem witness_StepRunsFrontCommand :
    ({ State.reset with pending := [.readLine {}] } : State).pending = .readLine {} :: [] ∧
    State.reset.pending = [] := ⟨rfl, rfl⟩

theorem witness_resets : running.startup.resetN = true ∧ heldReset.startup.resetN = false := ⟨rfl, rfl⟩

theorem witness_LoadSucceeds : loading.startup.load = .loading 0 ∧ loading.line.phase = .start ∧ loading.own = 1 ∧
    (∀ r, (loading.rails.get r).state = .off) :=
  ⟨rfl, rfl, rfl, fun r => by cases r <;> rfl⟩

/-- The images of each verdict: no tag, a wrong CRC, a shelf of 1, a shelf of 33, and station 3 of 3. -/
theorem witness_ImageChecks :
    (List.replicate 108 (0 : Byte)).length = 108 ∧ judgeImage 1 (List.replicate 108 0) = .refused .badTag .r0 ∧
    goodImage.length = 108 ∧ running.startup.load = .idle := by decide +kernel

set_option maxRecDepth 20000 in
theorem witness_ImageChecks_shelf : judgeImage 0 (imageBytes 0x01 0xF7 0x32) = .refused .badShelf .r0 := by
  decide +kernel

set_option maxRecDepth 20000 in
theorem witness_ImageChecks_largeShelf : judgeImage 0 (imageBytes 0x21 0x7F 0xD2) = .refused .badShelf .r0 := by
  decide +kernel

set_option maxRecDepth 20000 in
theorem witness_ImageChecks_station : judgeImage 3 goodImage = .refused .badStation .r0 := by decide +kernel

set_option maxRecDepth 20000 in
theorem witness_ImageChecks_check : judgeImage 1 (imageBytes 0x03 0xFF 0xBD) = .refused .badCheck .r0 := by
  decide +kernel

/-- The good image of shelf size `n` with the bytes listed changed. -/
def altered (n crcHigh crcLow : Byte) (changes : List (Nat × Byte)) : List Byte :=
  changes.foldl (fun l c => l.set c.1 c.2) (imageBytes n crcHigh crcLow)

set_option maxRecDepth 20000 in
/-- Rail 1 with persistence 0: the rail index is kept (R169). -/
theorem witness_ImageChecks_rail : judgeImage 1 (altered 0x03 0xD3 0x2C [(39, 0x00)]) = .refused .badRail .r1 := by
  decide +kernel

set_option maxRecDepth 20000 in
/-- Rail 0 names 1.1, which names 1.0 (R170). -/
theorem witness_ImageChecks_order : judgeImage 1 (altered 0x03 0x33 0x8C [(25, 0x05)]) = .refused .badOrder .r0 := by
  decide +kernel

/-- Six remote prerequisites of rail 0 and two of rail 1. -/
def eightRemote : List (Nat × Byte) :=
  [(24, 6), (25, 0), (26, 1), (27, 2), (28, 3), (29, 8), (30, 9), (49, 2), (50, 10), (51, 11)]

set_option maxRecDepth 20000 in
/-- Eight distinct remote prerequisites pass and a ninth is one too many (R170). -/
theorem witness_ImageChecks_holds :
    judgeImage 1 (altered 0x04 0x57 0x27 (eightRemote ++ [(49, 3), (52, 12)])) = .refused .holdLimit .r0 ∧
    (match judgeImage 1 (altered 0x04 0x3A 0xA0 eightRemote) with | .accepted _ => true | _ => false) = true := by
  decide +kernel

theorem witness_TransactionsBegin : State.reset.port.selectLow = false ∧ running.port.selectLow = true := ⟨rfl, rfl⟩

theorem witness_PortBytes : (0x0F : Byte) ∉ commandCodes.map (·.1) ∧ (0x43 : Byte) ∉ commandCodes.map (·.1) := by
  decide

theorem witness_CommandsAreRefusedInOrder :
    running.port.transaction = .command ∧ running.startup.restartPending = false ∧
    restarting.port.transaction = .command ∧ restarting.startup.restartPending = true ∧
    8 ≤ (8 : Byte).toNat ∧ 4 ≤ (4 : Byte).toNat ∧ running.shelfSize ≤ (3 : Byte).toNat ∧ State.reset.peers = [] ∧
    (inPhase .start).line.phase = .start ∧ (inPhase .unconfigured).line.phase = .unconfigured ∧
    (inPhase .listen).line.phase = .listen ∧ (inPhase .muted).line.phase = .muted := by decide

theorem witness_Reads :
    running.port.transaction = .command ∧ (2 : Byte).toNat < running.shelfSize ∧ running.peers[2]? = some Peer.cleared ∧
    (running.zones.entries.get .z0).record = none ∧ (trippedZ0.zones.entries.get .z0).record = some tripOfTable70 ∧
    trippedZ0.port.transaction = .command := by decide

theorem witness_TakeRecord :
    let x : TimingRecord :=
      { rail := .r2, kind := .drainForced, detail := .none, width := 80, continued := false, cycle := 206 }
    (running.queueRecord x).records.records = x :: [] ∧ (running.queueRecord x).port.transaction = .command ∧
    (running.queueRecord x).startup.restartPending = false ∧ running.records.records = [] := by decide

theorem witness_SetDemand : running.startup.config = some image ∧ running.line.phase = .active ∧
    running.startup.restartPending = false ∧ (inPhase .muted).startup.config = some image := by decide

theorem witness_DemandStartsFreeRail (d : Nat) :
    (aloneRail d).port.transaction = .command ∧ (aloneRail d).startup.restartPending = false ∧
    (aloneRail d).line.phase = .active ∧
    (aloneRail d).fittedConfig .r1 = some { railOne with prerequisites := [], settleDelay := d } ∧
    (∀ q, q ≠ .r1 → (aloneRail d).fittedConfig q = none) ∧ ((aloneRail d).rails.get .r1).state = .off ∧
    ((aloneRail d).rails.get .r1).remoteGood = true ∧ ((aloneRail d).rails.get .r1).remoteUp = true ∧
    (aloneRail d).zoneNormal .z1 = true ∧ (0x02 : Byte).getLsbD ZoneIx.z1.toNat = true :=
  ⟨rfl, rfl, rfl, rfl, fun q h => by cases q <;> first | rfl | exact absurd rfl h, rfl, rfl, rfl, rfl, rfl⟩

/-- Z0 tripped with rail 0 in FAULT, so that a clear releases it; not demanded, and demanded. -/
theorem witness_ClearZone :
    (∀ s ∈ [trippedZ0.setRail .r0 (railAt .fault).rails.r0, wanted .fault .off true 5],
      s.port.transaction = .command ∧ s.startup.restartPending = false ∧ s.line.phase = .active ∧
      (s.rails.get .r0).state = .fault ∧ (s.fittedConfig .r0).map (·.zone) = some .z0) ∧
    (trippedZ0.zones.entries.get .z0).demanded = false ∧
    ((wanted .fault .off true 5).zones.entries.get .z0).demanded = true := by decide

/-- What a rail released to OFF with its gate open becomes: its prerequisite not good, good with a settle delay, good with
none; after a clear and after a fall. -/
theorem test_released_rail :
    [(wanted .fault .off true 5), (wanted .fault .good true 5), (wanted .fault .good true 0)].map (fun s =>
      (run (.clearZone {} 0) s).map (fun t => (t.rails.get .r0).state)) =
      [some .waiting, some .settling, some .ramping] ∧
    [(wanted .falling .off false 5), (wanted .falling .good false 5), (wanted .falling .good false 0)].map (fun s =>
      ((s.actOnSample {} .r0).rails.get .r0).state) = [.waiting, .settling, .ramping] := by decide +kernel

theorem witness_wanted_atRest (pre : RailState) (d : Nat) :
    (wanted .fault pre true d).atRest ∧ (wanted .falling pre false d).atRest :=
  ⟨(State.atRest_iff _ {}).2 (fun r => by cases r <;> rfl), (State.atRest_iff _ {}).2 (fun r => by cases r <;> rfl)⟩

theorem witness_atRest : running.atRest ∧ (inPhase .muted).atRest ∧ settling.atRest :=
  ⟨(State.atRest_iff _ {}).2 (fun r => by cases r <;> rfl), (State.atRest_iff _ {}).2 (fun r => by cases r <;> rfl),
   (State.atRest_iff _ {}).2 (fun r => by cases r <;> rfl)⟩

theorem witness_ResumeLine : (inPhase .muted).port.transaction = .command ∧
    (inPhase .muted).startup.restartPending = false ∧ running.line.phase ≠ .muted := by decide

/-- A load at its start, in its last period and past it; and levels that give an image of zeros. -/
theorem witness_MemoryLevels : loading.startup.load = .loading 0 ∧ loading.now - 0 < 7104 ∧
    7104 ≤ ({ loading with now := 7104 } : State).now - 0 ∧ (List.replicate 108 (0 : Byte)).length = 108 ∧
    ∀ j i, j < 108 → i < 8 → (List.replicate 7104 false).getD (8 * (24 + 8 * j + i) + 4) true =
      ((List.replicate 108 (0 : Byte)).getD j 0).getLsbD (7 - i) := by
  refine ⟨rfl, by decide, by decide, by decide, fun j i hj hi => ?_⟩
  rw [List.getD, List.getD, List.getElem?_replicate, List.getElem?_replicate, if_pos (by omega), if_pos hj]
  exact (BitVec.getLsbD_zero).symm

theorem witness_Reload : (inPhase .unconfigured).port.transaction = .command ∧
    (inPhase .unconfigured).startup.restartPending = false := by decide

theorem witness_Reinitialisation :
    restarting.startup.restartPending = true ∧ (∀ r, (restarting.rails.get r).state ≠ .falling) ∧
    restarting.line.leaving ≠ .due ∧ restarting.startup.load = .idle ∧ running.startup.restartPending = false ∧
    loading.startup.load = .loading 0 :=
  ⟨rfl, fun r => by cases r <;> decide, by decide, rfl, rfl, rfl⟩

theorem witness_DemandPins :
    (running.zones.pin .dem0).level = (running.zones.pin .dem0).taken ∧ heldReset.startup.inReset ≠ none ∧
    running.startup.inReset = none ∧
    (let p : Pin := ⟨true, 0, false⟩
     ({ running with zones := running.zones.setPin .dem0 p } : State).zones.pin .dem0 = p ∧ p.level ≠ p.taken) := by
  decide

/-- An occasion that ends exactly at the sample instant is in time for it. -/
theorem witness_SampleStoresAllFour : running.now + ({ wait := 3200 } : Occasion).wait ≤ running.monitor.nextSample ∧
    running.startup.inReset = none ∧ heldReset.startup.inReset ≠ none := by decide

theorem witness_SampleClasses : railZero.dischargeLevel < railZero.nominal - railZero.magnitude ∧
    railZero.magnitude ≤ railZero.nominal ∧ classify railZero 199 = .below ∧ classify railZero 1900 = .inWindow ∧
    classify railZero 2101 = .outside := by decide

/-- At the upper end of the window: demanded, not demanded but held, neither; and with PG used. -/
theorem witness_QualifyingSample :
    let s := sampled .r0 .ramping 2100 false 0 none
    let held := s.setRail .r0 { s.rails.r0 with peerHeld := true }
    s.fittedConfig .r0 = some railZero ∧ (s.rails.get .r0).state = .ramping ∧
    classify railZero (s.monitor.rails.get .r0).lastSample.toNat = .inWindow ∧ railZero.pgUsed = false ∧
    s.demanded .z0 = false ∧ s.held .r0 = false ∧ held.held .r0 = true ∧ held.demanded .z0 = false ∧
    (s.setZone .z0 { Zone.cleared with demanded := true }).demanded .z0 = true ∧
    ((sampled .r1 .ramping 1500 true 0 none).monitor.rails.get .r1).pg = true ∧ railOne.pgUsed = true := by decide

/-- A ramp and a discharge timer of 2 ticks, at their expiry and 1 period past it. -/
theorem witness_LateSample :
    let ramp (now : Nat) : State := { (sampled .r0 .ramping 2100 false 0 none).setRail .r0
      { Rail.cleared with state := .ramping, ramp := some ⟨0, 2⟩ } with now := now }
    let fall (now : Nat) : State := { (sampled .r0 .falling 199 false 0 none).setRail .r0
      { Rail.cleared with state := .falling, discharge := some ⟨0, 2⟩ } with now := now }
    (ramp 3201).fittedConfig .r0 = some railZero ∧ ((ramp 3201).rails.get .r0).ramp = some ⟨0, 2⟩ ∧
    0 + 2 * 1600 < (ramp 3201).now ∧ (ramp 3200).now ≤ 0 + 2 * 1600 ∧ (fall 3201).fittedConfig .r0 = some railZero ∧
    ((fall 3201).rails.get .r0).discharge = some ⟨0, 2⟩ ∧ 0 + 2 * 1600 < (fall 3201).now ∧
    (fall 3200).now ≤ 0 + 2 * 1600 := by decide

/-- A RAMPING rail of policy LATCH that a peer holds stays in DRAINING, or GOOD where its zone is demanded, whatever its
prerequisites. -/
theorem test_latch_rail :
    let s := { (sampled .r0 .ramping 2100 false 0 none).setRail .r0
        { Rail.cleared with state := .ramping, peerHeld := true, remoteGood := false, remoteUp := false } with
      startup := { running.startup with
        config := some { image with rails := ⟨{ railZero with policy := .latch }, railOne, bare, bare⟩ } } }
    (s.fittedConfig .r0).map (·.policy) = some .latch ∧ s.held .r0 = true ∧ s.demanded .z0 = false ∧
    ((s.actOnSample {} .r0).rails.get .r0).state = .draining ∧
    (((s.setZone .z0 { Zone.cleared with demanded := true }).actOnSample {} .r0).rails.get .r0).state = .good := by
  decide +kernel

/-- At 3,201 a timer due at 3,200 has expired before the sample, at 3,200 the sample comes first (R157). -/
theorem test_late_sample :
    let ramp (now : Nat) : State := { (sampled .r0 .ramping 2100 false 0 none).setRail .r0
      { Rail.cleared with state := .ramping, ramp := some ⟨0, 2⟩ } with now := now }
    let fall (now : Nat) : State := { (sampled .r0 .falling 199 false 0 none).setRail .r0
      { Rail.cleared with state := .falling, discharge := some ⟨0, 2⟩ } with now := now }
    let drop (now : Nat) : State := { sampled .r1 .good 1500 true 0 (some ⟨0, 2⟩) with now := now }
    [ramp 3200, ramp 3201].map (fun s => ((s.actOnSample {} .r0).rails.get .r0).faultKind) = [.none, .rampTimeout] ∧
    [fall 3200, fall 3201].map (fun s => ((s.actOnSample {} .r0).rails.get .r0).faultKind) =
      [.none, .dischargeTimeout] ∧
    [drop 3200, drop 3201].map (fun s => (s.actOnSample {} .r1).records.records.map (fun x => (x.kind, x.width))) =
      [[(.dropout, 2)], [(.fault, 2)]] := by decide +kernel

theorem witness_BelowSample :
    (sampled .r0 .falling 199 false 0 none).fittedConfig .r0 = some railZero ∧
    ((sampled .r0 .falling 199 false 0 none).rails.get .r0).state = .falling ∧ classify railZero 199 = .below ∧
    classify railZero 200 ≠ .below ∧ running.fittedConfig .r2 = none ∧
    ((sampled .r0 .fault 0 false 0 none).rails.get .r0).state = .fault ∧
    ((sampled .r0 .ramping 2101 false 0 none).rails.get .r0).state = .ramping ∧ classify railZero 2101 ≠ .inWindow ∧
    ((sampled .r1 .ramping 1500 false 0 none).monitor.rails.get .r1).pg = false := by decide

/-- The counts on each side of the persistence 3. -/
theorem witness_Backfeed :
    (sampled .r0 .settling 199 false 2 none).fittedConfig .r0 = some railZero ∧
    ((sampled .r0 .settling 199 false 2 none).rails.get .r0).state = .settling ∧ classify railZero 199 = .below ∧
    classify railZero 200 ≠ .below ∧ 1 + 1 < railZero.persistence ∧ railZero.persistence ≤ 2 + 1 := by decide

/-- Rail 1 uses PG: no timer and PG high, PG low with a deglitch, the timer running at either PG level; a deglitch of 0;
the counts on each side of the persistence 2. Rail 0 does not use PG. -/
theorem witness_RailUp :
    (sampled .r1 .good 1580 true 0 none).fittedConfig .r1 = some railOne ∧
    ((sampled .r1 .draining 1581 false 1 none).rails.get .r1).state = .draining ∧
    classify railOne 1580 = .inWindow ∧ classify railOne 1581 = .outside ∧ railOne.persistence ≤ 1 + 1 ∧
    0 + 1 < railOne.persistence ∧ railOne.pgUsed = true ∧ railOne.pgDeglitch ≠ 0 ∧
    ((sampled .r1 .good 1500 true 0 (some ⟨0, 20⟩)).monitor.rails.get .r1).deglitch = some ⟨0, 20⟩ ∧
    ((sampled .r1 .good 1500 false 0 (some ⟨0, 20⟩)).monitor.rails.get .r1).pg = false ∧
    (sampled .r0 .good 2101 false 2 none).fittedConfig .r0 = some railZero ∧ railZero.pgUsed = false ∧
    railZero.persistence ≤ 2 + 1 ∧
    (let m := (sampled .r1 .good 1581 true 1 (some ⟨0, 20⟩)).monitor.rails.get .r1
     m.deglitch = some ⟨0, 20⟩ ∧ m.pg = true ∧ railOne.persistence ≤ m.outside + 1 ∧
       0 + 20 * 1600 < 32001 ∧ ¬ 0 + 20 * 1600 < 32000) := by decide

/-- The WINDOW fault at the sample that ends a dropout: DROPOUT, FAULT (assumption 13). -/
theorem test_window_ends_dropout :
    ((sampled .r1 .good 1581 true 1 (some ⟨0, 20⟩)).actOnSample {} .r1).records.records.map (·.kind) =
      [.dropout, .fault] := by decide +kernel

/-- The deglitch of 0 with which a low PG faults at once. -/
theorem witness_RailUp_noDeglitch :
    let s := { sampled .r1 .good 1500 false 0 none with
      startup := { running.startup with
        config := some { image with rails := ⟨railZero, { railOne with pgDeglitch := 0 }, bare, bare⟩ } } }
    (s.fittedConfig .r1).map (·.pgDeglitch) = some 0 ∧ (s.rails.get .r1).state = .good ∧
    (s.monitor.rails.get .r1).deglitch = none ∧ (s.monitor.rails.get .r1).pg = false := by decide

theorem witness_SettleExpiry :
    settling.fittedConfig .r0 = some railZero ∧ (settling.rails.get .r0).state = .settling ∧
    (settling.rails.get .r0).settle = some ⟨0, 5⟩ ∧ settling.allUp railZero .r0 = true ∧
    (running.rails.get .r0).settle = none := by decide

/-- 301.5 µs into slot 2; a slot boundary that is late (assumption 14). -/
theorem test_shelf_time :
    let s (now : Nat) : State := { running with now := now, line := { running.line with slotTimer := some ⟨2, 0⟩ } }
    (s 4824).shelfSlot = 2 ∧ (s 4824).shelfOffset = 301 ∧ (s 7200).shelfOffset = 449 := by decide +kernel

theorem witness_TimerExpiryFaults :
    let ramp := running.setRail .r0 { Rail.cleared with state := .ramping, ramp := some ⟨0, 50⟩ }
    let fall := running.setRail .r0 { Rail.cleared with state := .falling, discharge := some ⟨0, 30⟩ }
    let up := sampled .r1 .good 1500 false 0 (some ⟨0, 20⟩)
    ramp.fittedConfig .r0 = some railZero ∧ (ramp.rails.get .r0).state = .ramping ∧
    (ramp.rails.get .r0).ramp = some ⟨0, 50⟩ ∧ (fall.rails.get .r0).state = .falling ∧
    (fall.rails.get .r0).discharge = some ⟨0, 30⟩ ∧ up.fittedConfig .r1 = some railOne ∧
    (up.rails.get .r1).state = .good ∧ (up.monitor.rails.get .r1).deglitch = some ⟨0, 20⟩ ∧
    (running.rails.get .r0).ramp = none ∧ (running.rails.get .r0).discharge = none ∧
    (running.monitor.rails.get .r0).deglitch = none := by decide

theorem witness_Drains :
    let held := running.setRail .r0 { Rail.cleared with state := .draining, drain := some ⟨0, 80⟩, peerHeld := true }
    let free := running.setRail .r1 { Rail.cleared with state := .draining, peerHeld := true }
    held.fittedConfig .r0 = some railZero ∧ (held.rails.get .r0).state = .draining ∧
    (held.rails.get .r0).drain = some ⟨0, 80⟩ ∧ (running.rails.get .r0).drain = none ∧
    free.fittedConfig .r1 = some railOne ∧ (free.rails.get .r1).state = .draining ∧ railOne.drainTimeout = 0 := by
  decide

/-- A queue of 15 records has room, one of 16 has none. -/
theorem witness_QueueKeepsOldest :
    let x : TimingRecord := ⟨.r0, .ramp, .none, 4, false, 51⟩
    (List.replicate 15 x).length < 16 ∧ 16 ≤ (List.replicate 16 x).length := by decide

theorem witness_SlotBoundary :
    State.reset.line.slotTimer = none ∧ running.line.slotTimer = some ⟨1, 0⟩ ∧ running.line.timingHeld = true ∧
    1 < running.shelfSize ∧ 2 ≤ running.shelfSize ∧
    (let s := { running with line := { running.line with timingHeld := false, phase := .listen, listenCount := 2 } }
     s.line.slotTimer = some ⟨1, 0⟩ ∧ s.line.timingHeld = false ∧ s.line.listenCount + 1 = s.shelfSize) ∧
    (let s := receiving { running with
        peers := List.replicate 3 { Peer.cleared with presence := .present, misses := 2 } }
     (s.peers[2]?).map (fun p => (p.presence, p.heard, p.misses)) = some (.present, false, 2) ∧ 2 ≠ s.own) ∧
    (let s := { inPhase .listen with line := { (inPhase .listen).line with listenCount := 2 } }
     s.line.slotTimer = some ⟨1, 0⟩ ∧ s.line.timingHeld = true ∧ s.line.phase = .listen ∧
       s.line.listenCount + 1 = s.shelfSize ∧ s.startup.restartPending = false) ∧
    (let s := { running with
        line := { running.line with send := .cutOff }, receiver := { running.receiver with reception := .blocked } }
     s.line.slotTimer = some ⟨s.own, 0⟩ ∧ s.line.timingHeld = true ∧ s.line.send ≠ .idle ∧
       s.receiver.reception = .blocked) := by
  decide

/-- The end of the own slot ends BLOCKED; the listen period's end makes the station ACTIVE. -/
theorem test_slot_ends :
    (run (.slotBoundary {}) { running with
        line := { running.line with send := .cutOff }
        receiver := { running.receiver with reception := .blocked } }).map
      (fun t => (t.receiver.reception, t.line.send)) = some (.waiting none, .idle) ∧
    (run (.slotBoundary {})
      { inPhase .listen with line := { (inPhase .listen).line with listenCount := 2 } }).map (·.line.phase) =
      some .active := by decide +kernel

/-- Byte 01h on the line: start bit, bit 0, seven zeros, stop bit, 16 periods each; cut off, nothing is driven. -/
theorem test_line_driven :
    let s (now : Nat) (st : SendState) : State :=
      { running with now := now, line := { running.line with send := st, tx := some ⟨[0x01], 160, false⟩ } }
    [160, 175, 176, 191, 192, 303, 304, 320].map (fun now => (s now .sending).drivesDominant) =
      [true, true, false, false, true, true, false, false] ∧ (s 160 .cutOff).drivesDominant = false := by
  decide +kernel

/-- A frame is due, and it is no longer once it is being sent. -/
theorem witness_FrameBuild :
    running.startup.config = some image ∧ running.line.slotTimer = some ⟨1, 0⟩ ∧ 1 = running.own ∧
    running.line.phase = .active ∧ running.line.timingHeld = true ∧ running.line.send = .idle ∧
    ¬ (running.startup.restartPending = true ∧ running.line.leaving = .done) ∧
    ({ running.line with send := .sending } : LineAccess).send ≠ .idle := by decide

theorem witness_HoldList : (∀ r, ∀ p ∈ (image.rails.get r).prerequisites, p.station < 32) ∧
    (⟨0, .r0⟩ : Ref) ∈ (image.rails.get .r0).prerequisites ∧ (railAt .falling).holdList = [0x00] :=
  ⟨fun r => by cases r <;> decide, by decide, by decide⟩

theorem witness_image_sound : image.sound 1 :=
  ⟨by decide, by decide, by decide, by decide, by decide, by decide +kernel, fun r => by cases r <;> decide⟩

theorem witness_OwnFrame :
    let s := { running with line := { running.line with send := .sending, tx := some ⟨[0x96], 160, true⟩ } }
    s.line.send = .sending ∧ s.line.tx = some ⟨[0x96], 160, true⟩ ∧ running.line.tx = none ∧ s.line.coldMark = false ∧
    s.receiver.consecutive < 2 ∧ 2 ≤ ({ s.receiver with consecutive := 2 } : Receiver).consecutive ∧
    ({ s.line with coldMark := true } : LineAccess).coldMark = true := by decide

theorem witness_ColdStart :
    let s := { inPhase .listen with line := { (inPhase .listen).line with timingHeld := false, silence := some 0 } }
    s.line.silence = some 0 ∧ s.line.phase = .listen ∧ s.line.timingHeld = false ∧ s.startup.restartPending = false ∧
    running.line.silence = none ∧ restarting.startup.restartPending = true := by decide

theorem witness_FrameStart :
    let s (x : Reception) : State := { running with receiver := { running.receiver with reception := x } }
    State.reset.receiver.reception = .off ∧ running.receiver.reception = .waiting none ∧
    (s (.waiting (some 0))).receiver.reception = .waiting (some 0) ∧
    0 + 320 < (s .blocked).now + ({ wait := 321 } : Occasion).wait ∧
    (s .blocked).now + ({ wait := 320 } : Occasion).wait ≤ 0 + 320 ∧
    (s (.receiving 160)).receiver.reception = .receiving 160 ∧ (s .blocked).receiver.reception = .blocked := by decide

/-- A refused frame of full length (its CRC is wrong), and a duplicate of the own station. -/
theorem witness_RefusedFrame :
    (receiving running).receiver.reception = .receiving 160 ∧ (receiving running).startup.config = some image ∧
    judgeFrame image 1 (sent (frameTwo 0x00 0x03 0xE6 0xA2)) = .refused .badCheck ∧
    judgeFrame image 2 (sent (frameTwo 0x00 0x03 0xE6 0xA1)) = .refused .duplicate ∧
    expectedLength (frameTwo 0x00 0x03 0xE6 0xA1) = some 21 := by decide +kernel

/-- A valid frame in its slot, the same frame 21 µs late, and the senders of the flags. -/
theorem witness_ValidFrame :
    judgeFrame image 1 (sent (frameTwo 0x00 0x03 0xE6 0xA1)) = .valid (Frame.ofBytes (frameTwo 0x00 0x03 0xE6 0xA1)) ∧
    (receiving running).line.slotTimer = some ⟨2, 0⟩ ∧ running.peers.length = image.shelfSize ∧
    inSlotWindow ⟨2, 0⟩ 3 2 160 = true ∧ inSlotWindow ⟨2, 0⟩ 3 2 480 = true ∧ inSlotWindow ⟨2, 0⟩ 3 2 481 = false ∧
    (Frame.ofBytes (frameTwo 0x20 0x00 0x6B 0x6C)).leaving = true := by decide +kernel

/-- Station 2's trip of Z0 moves a NORMAL zone's rails, and releases FAULT rails of a zone one generation behind; the zone
table goes first, and does not. -/
theorem witness_ZonesOfFrame :
    let f := Frame.ofBytes framePart
    judgeFrame image 1 (sent framePart) = .valid f ∧ expectedLength framePart = some 29 ∧
    ((railAt .good).zoneOutcome f .z0).moved = true ∧ ((railAt .good).zoneOutcome f .z0).released = false ∧
    ((running.setZone .z0 { Zone.cleared with generation := 0xFF }).zoneOutcome f .z0).released = true ∧
    blockOrder { blocks := [.zoneTable] } = [] ++ Block.zoneTable :: [.lineAccess, .peerTable] ∧
    blockOrder {} = [.lineAccess, .peerTable] ++ Block.zoneTable :: [] ∧
    (railAt .waiting).rails.r0.state = .waiting ∧ (railAt .fault).rails.r0.state = .fault := by decide +kernel

/-- A newer generation that is TRIPPED releases rail 0 from FAULT to OFF with its kind kept (R87, R30). -/
theorem test_frame_releases :
    (run (.frameReceived {} (sent framePart)) (receiving ((running.setZone .z0 { Zone.cleared with generation := 0xFF
      }).setRail .r0 { Rail.cleared with state := .fault, faultKind := .backfeed }))).map
      (fun t => ((t.rails.get .r0).state, (t.rails.get .r0).faultKind)) = some (.off, .backfeed) := by decide +kernel

/-- Generation differences 0, 1, 127, 128 and 255. -/
theorem witness_ZoneBytes :
    ((0x05 : Byte) - 0x05).toNat = 0 ∧ ((0x06 : Byte) - 0x05).toNat = 1 ∧ ((0x84 : Byte) - 0x05).toNat = 127 ∧
    ((0x85 : Byte) - 0x05).toNat = 128 ∧ ((0x04 : Byte) - 0x05).toNat = 255 ∧
    Zone.cleared.condition = .normal ∧ Zone.cleared.record = none ∧ trippedZ0.zones.entries.z0.condition = .tripped := by
  decide

/-- Of two records, that of Table 70 is the earlier, and the merge in either order leaves it. -/
theorem witness_TripRecords :
    let later : TripRecord := { station := 0, rail := .r0, kind := .dischargeTimeout, cycle := 103, slot := 0, offset := 50 }
    tripOfTable70.earlier later = true ∧ mergeRecord (some later) tripOfTable70 = tripOfTable70 ∧
    mergeRecord (some tripOfTable70) later = tripOfTable70 ∧ ((0x8064 : Half) - 0x0064).toNat = 32768 := by decide

theorem witness_FrameRoundTrip :
    let f := Frame.ofBytes framePart
    f.holds.length ≤ 8 ∧ f.signature = image.signature ∧ f.station.toNat < image.shelfSize ∧ f.station.toNat ≠ 1 := by
  decide +kernel

/-- Frames that fail each check of Table 36 first, in its order. -/
theorem witness_FrameChecks :
    let good := frameTwo 0x00 0x03 0xE6 0xA1
    judgeFrame image 1 [] = .refused .badStart ∧
    judgeFrame image 1 [⟨0x96, false⟩] = .refused .framing ∧
    judgeFrame image 1 (sent (good.take 20)) = .refused .truncated ∧
    judgeFrame image 1 (sent [0x96, 0x02, 0x09]) = .refused .badLength ∧
    judgeFrame image 1 (sent (frameTwo 0x00 0x03 0xE6 0xA2)) = .refused .badCheck ∧
    judgeFrame { image with signature := 1 } 1 (sent good) = .refused .foreign ∧
    judgeFrame { image with shelfSize := 2 } 1 (sent good) = .refused .badStation ∧
    judgeFrame image 2 (sent good) = .refused .duplicate := by decide +kernel

/-- The rows of Table 10 a rail takes by itself, rail 0 with its prerequisite GOOD, DRAINING or OFF: started by an open
gate, stopped by a closed one, gone back, fallen, drained, returned. -/
theorem test_moves_of_table :
    let move (s : State) : Option RailState := (s.react {} .r0).map (fun t => (t.rails.get .r0).state)
    let shut (s : State) : State := s.setZone .z0 { Zone.cleared with demanded := false }
    let kept (s : State) : State := s.setRail .r0 { s.rails.r0 with peerHeld := true }
    [wanted .off .off false 5, wanted .off .good false 5, wanted .off .good false 0, wanted .waiting .good false 5,
      wanted .waiting .good false 0,
      wanted .settling .draining false 5, wanted .ramping .off false 5, wanted .good .off false 5,
      kept (wanted .draining .good false 5), wanted .draining .good true 5].map move =
      [some .waiting, some .settling, some .ramping, some .settling, some .ramping, some .waiting, some .falling,
        some .falling, some .good, some .falling] ∧
    [shut (wanted .waiting .good false 5), shut (wanted .settling .good false 5), shut (wanted .good .good false 5),
      shut (kept (wanted .good .good false 5))].map move = [some .off, some .off, some .falling, some .draining] ∧
    [wanted .waiting .draining false 5, wanted .settling .good false 5, wanted .ramping .draining false 5,
      wanted .good .draining false 5, kept (wanted .draining .good true 5), wanted .falling .good false 5,
      wanted .fault .good false 5, shut (wanted .off .good false 5)].map move = List.replicate 8 none := by
  decide +kernel

/-- The first judgement that applies decides: a DRAINING rail not held whose demand returns. -/
theorem witness_RailsMoveAsTabled :
    viewOrder {} = [] ++ View.prerequisites :: [.holds, .demand] ∧
    viewOrder { views := [.demand] } = [] ++ View.demand :: [.prerequisites, .holds] ∧
    (((wanted .draining .good false 5).react {} .r0).map (fun t => t.rails.r0.state)) = some .falling ∧
    (((wanted .draining .good false 5).react { views := [.demand] } .r0).map (fun t => t.rails.r0.state)) =
      some .good ∧ (wanted .off .good false 5).fittedConfig .r2 = none := by decide +kernel

/-- A state with every timer invariant and rail 0 RAMPING. -/
theorem witness_timersAgree :
    let s := (wanted .ramping .good false 5).setRail .r0
      { Rail.cleared with state := .ramping, ramp := some ⟨0, 50⟩ }
    s.sound ∧ s.timersFit ∧ s.timersAgree := by
  refine ⟨⟨⟨⟨?_, .inr (.inl rfl), ⟨_, rfl, by decide⟩, by decide, rfl, rfl, rfl⟩, fun h => absurd rfl h,
      fun h => absurd rfl h⟩, ?_⟩, ?_, ?_⟩
  · exact ⟨by decide, by decide, by decide, by decide, by decide, by decide +kernel, fun r => by cases r <;> decide⟩
  · intro r; cases r <;> first | rfl | exact fun h => absurd h (by decide)
  · intro r; cases r <;> decide
  · intro r c h; cases r <;> cases h <;> exact ⟨fun t h => (by cases h), fun t h => (by cases h <;> rfl), fun t h => (by cases h),
      fun t h => (by cases h), fun t h => (by cases h)⟩

/-- A part at every bound, and one past each. -/
theorem witness_TripPart :
    let p : TripPart := { zone := 7, station := 2, kindCode := 5, rail := .r3, cycle := 0, slot := 2, offset := 449 }
    (p.accepted 3 0x80).isSome = true ∧ p.accepted 3 0x7F = none ∧ p.accepted 2 0x80 = none ∧
    ({ p with zone := 8 } : TripPart).accepted 3 0xFF = none ∧ ({ p with kindCode := 6 } : TripPart).accepted 3 0x80 = none ∧
    ({ p with kindCode := 0 } : TripPart).accepted 3 0x80 = none ∧
    ({ p with offset := 450 } : TripPart).accepted 3 0x80 = none := by decide +kernel

end Sys2Proof.Tests
end

/-! Proofs of the invariants: what a step can do. `State.Event` lists the single changes of state that commands are made
of, each with what the command has checked before it; `step_leads` says that every step is a chain of them. An invariant
kept by every event is kept by every step (`step_keeps`). -/

namespace Sys2Proof.Machine
open Sys2Proof

/-- Something of the station shows that a configuration is in force: a phase of the shelf line, an own frame, a running
slot timer or a receiver that is not OFF. -/
def State.onLine (s : State) : Prop :=
  s.line.phase = .listen ∨ s.line.phase = .active ∨ s.line.phase = .muted ∨ s.line.send ≠ .idle ∨
  s.line.slotTimer ≠ none ∨ s.receiver.reception ≠ .off

/-- The single changes of state that commands are made of, each as the model makes it and with the conditions under
which a command makes it. -/
inductive State.Event : State → State → Prop
  /-- The command at the front leaves the queue. -/
  | dequeued (s : State) (rest : List Instr) : Event s { s with pending := rest }
  /-- Time passes. -/
  | clock (s : State) (t : Nat) (ht : s.now ≤ t) : Event s { s with now := t }
  /-- The board port changes, but for its demand mask; a transaction begins outside reset only. -/
  | port (s : State) (p : BoardPort) (hd : p.portDemand = s.port.portDemand)
      (hc : p.transaction = .command → s.port.transaction = .command ∨ s.startup.inReset = none) :
      Event s { s with port := p }
  /-- The oldest record is taken. -/
  | recordTaken (s : State) (x : TimingRecord) (rest : List TimingRecord) (hr : s.records.records = x :: rest) :
      Event s { s with records := { s.records with records := rest } }
  | resetEnds (s : State) (cause : RestartCause) (straps : BitVec 5) : Event s (s.endReset cause straps)
  | resetBegins (s : State) (cause : RestartCause) (level : Bool) :
      Event s { s.enterReset cause with startup := { (s.enterReset cause).startup with resetN := level } }
  | loadFailed (s : State) (e : ConfigErrorKind) (r : RailIx) (hl : s.startup.load ≠ .idle) : Event s (s.loadFails e r)
  | loaded (s : State) (o : Occasion) (image : List Byte) (img : Image) (hl : s.startup.load ≠ .idle)
      (hj : judgeImage s.own image = .accepted img) : Event s (s.loadSucceeds o img)
  | demandSet (s : State) (o : Occasion) (mask : Byte) :
      Event s (({ s with port := { s.port with portDemand := mask } }).workOutDemand.judge o .demand)
  | pinChanged (s : State) (pin : DemPin) :
      Event s { s with zones := s.zones.setPin pin ⟨!(s.zones.pin pin).level, s.now, (s.zones.pin pin).taken⟩ }
  | pinTaken (s : State) (o : Occasion) (pin : DemPin) :
      Event s (({ s with
        zones := s.zones.setPin pin { s.zones.pin pin with taken := (s.zones.pin pin).level } }).workOutDemand.judge o
          .demand)
  | zoneCleared (s : State) (o : Occasion) (z : ZoneIx) : Event s (s.clear o z)
  | resumed (s : State) (o : Occasion) (hp : s.line.phase = .muted) :
      Event s ({ s.enterListen with
        receiver := { s.receiver with consecutive := 0, muteCause := .none } }.settle o)
  | restartAccepted (s : State) (o : Occasion) (hc : s.port.transaction = .command) : Event s (s.acceptRestart o)
  | reloaded (s : State) (straps : BitVec 5) (hp : s.line.phase = .unconfigured) : Event s (s.beginLoad straps)
  | reinitialised (s : State) (straps : BitVec 5) (hr : s.reinitialises = true) :
      Event s ((s.warmValues.setFlagIf (!s.records.records.isEmpty) .recordsWaiting).beginLoad straps)
  /-- The sample instant `at_` comes, a whole number of sample periods after the next one due. -/
  | sampled (s : State) (counts : Four (BitVec 12)) (pg : Four Bool) (at_ k : Nat) (hn : s.now ≤ at_)
      (hk : at_ = s.monitor.nextSample + k * Config.samplePeriod) :
      Event s ({ s with
        now := at_
        monitor := { s.monitor with nextSample := at_ + Config.samplePeriod } }.storeSamples counts pg)
  /-- The outside count of a rail that neither ramps, falls nor has faulted. -/
  | counted (s : State) (r : RailIx) (n : Nat) (h₁ : (s.rails.get r).state ≠ .ramping)
      (h₂ : (s.rails.get r).state ≠ .falling) (h₃ : (s.rails.get r).state ≠ .fault) :
      Event s (s.setMonitor r { s.monitor.rails.get r with outside := n })
  /-- The deglitch timer of a rail that is up starts at a sample. -/
  | deglitchStarts (s : State) (r : RailIx) (c : RailConfig) (hc : s.fittedConfig r = some c)
      (hs : (s.rails.get r).state = .good ∨ (s.rails.get r).state = .draining)
      (hn : s.monitor.nextSample = s.now + Config.samplePeriod) :
      Event s (s.setMonitor r { s.monitor.rails.get r with
        deglitch := some { start := s.now, length := c.pgDeglitch } })
  /-- A dropout ends at a sample, its deglitch timer not overdue. -/
  | dropoutEnds (s : State) (r : RailIx) (c : RailConfig) (t : Timer) (hc : s.fittedConfig r = some c)
      (hd : (s.monitor.rails.get r).deglitch = some t) (ht : s.overdue (some t) = false)
      (hn : s.monitor.nextSample = s.now + Config.samplePeriod) :
      Event s ((s.setMonitor r { s.monitor.rails.get r with deglitch := none }).queueRecord
        (s.makeRecord r .dropout .none (s.widthSince t.start) false))
  | faulted (s : State) (o : Occasion) (r : RailIx) (k : FaultKind) : Event s (s.faultRail o r k)
  | qualified (s : State) (o : Occasion) (r : RailIx) (c : RailConfig) (hc : s.fittedConfig r = some c)
      (hs : (s.rails.get r).state = .ramping) (ht : s.overdue (s.rails.get r).ramp = false) :
      Event s (s.qualify o c r)
  | discharged (s : State) (o : Occasion) (r : RailIx) (c : RailConfig) (hc : s.fittedConfig r = some c)
      (hs : (s.rails.get r).state = .falling) (ht : s.overdue (s.rails.get r).discharge = false) :
      Event s (s.discharged o r)
  | settleExpired (s : State) (o : Occasion) (r : RailIx) (c : RailConfig) (hc : s.fittedConfig r = some c)
      (hs : (s.rails.get r).state = .settling) : Event s ((s.enterRamping c r).settle o)
  | drainForced (s : State) (o : Occasion) (r : RailIx) (c : RailConfig) (t : Timer) (hc : s.fittedConfig r = some c)
      (hs : (s.rails.get r).state = .draining) (ht : (s.rails.get r).drain = some t) :
      Event s (((s.queueRecord (s.makeRecord r .drainForced .none c.drainTimeout false)).enterFalling c r
        .demand).settle o)
  | drainContinued (s : State) (r : RailIx) (c : RailConfig) (t : Nat) (hc : s.fittedConfig r = some c)
      (hs : (s.rails.get r).state = .draining) :
      Event s ((s.queueRecord (s.makeRecord r .drain .none Config.widthLimit true)).setRail r
        { s.rails.get r with drainFrom := t })
  /-- The own slot ends: the send state is IDLE again and the receiver looks for frames. -/
  | ownSlotEnds (s : State) (ho : s.onLine) :
      Event s { s with
        line := { s.line with send := .idle, tx := none }
        receiver := { s.receiver with
          reception := if s.receiver.reception = .blocked then .waiting none else s.receiver.reception } }
  | missChecked (s : State) (o : Occasion) (k : Nat) : Event s (s.missCheck o k)
  /-- A slot of the shelf begins at instant `t`. -/
  | slotBegins (s : State) (k t : Nat) (hs : s.line.slotTimer ≠ none) (hk : s.shelfSize = 0 ∨ k < s.shelfSize) :
      Event s { s.updatePeer k (fun p => { p with heard := false }) with
        line := { s.line with
          slotTimer := some { slot := k, start := t }
          cycle := if s.line.timingHeld && decide (k = 0) then s.line.cycle + 1 else s.line.cycle } }
  | listenCounted (s : State) (o : Occasion) : Event s (s.countListen o)
  | frameBuilt (s : State) (img : Image) (f : Frame) (last : ZoneIx) (out : OutFrame)
      (hc : s.startup.config = some img) :
      Event s { s.updatePeer s.own (Peer.built f) with
        zones := { s.zones with lastPart := last }
        line := { s.line with send := .sending, tx := some out }
        receiver := { s.receiver with reception := .blocked } }
  /-- A collision cuts the own frame `f` off. -/
  | cutOff (s : State) (f : OutFrame) (hs : s.line.send = .sending) (hf : s.line.tx = some f) :
      Event s { s with
        line := { s.line with send := .cutOff, tx := none, leaving := if f.leaving then .done else s.line.leaving }
        receiver := { s.receiver with collisions := saturate s.receiver.collisions } }
  | collisionCounted (s : State) :
      Event s { s with receiver := { s.receiver with consecutive := min 3 (s.receiver.consecutive + 1) } }
  | listens (s : State) (o : Occasion) (ho : s.onLine) : Event s (s.enterListen.settle o)
  | muted (s : State) (o : Occasion) (cause : MuteCause) (ho : s.onLine) : Event s ((s.enterMuted cause).settle o)
  /-- The own frame `f` is read back clean. -/
  | ownFrameEnds (s : State) (f : OutFrame) (hs : s.line.send = .sending) (hf : s.line.tx = some f) :
      Event s { s with
        line := { s.line with tx := none, coldMark := false, leaving := if f.leaving then .done else s.line.leaving }
        receiver := { s.receiver with consecutive := 0 } }
  | silenceSet (s : State) (x : Option Nat) : Event s { s with line := { s.line with silence := x } }
  | coldStarted (s : State) (o : Occasion) (hp : s.line.phase = .listen) (hr : s.startup.restartPending = false) :
      Event s ({ s with line := { s.line with
        phase := .active, slotTimer := some { slot := s.own, start := s.now }, timingHeld := true
        cycle := if s.line.syncSinceLoad then s.line.cycle else 0
        silence := none, coldMark := true } }.settle o)
  /-- The receiver, not OFF, goes to another reception state than OFF. -/
  | reception (s : State) (x : Reception) (hs : s.receiver.reception ≠ .off) (hx : x ≠ .off) :
      Event s { s with receiver := { s.receiver with reception := x } }
  | errorCounted (s : State) (e : ErrorKind) :
      Event s { s with receiver := { s.receiver with
        lastError := e, receiveErrors := saturate s.receiver.receiveErrors } }
  | duplicateInMuted (s : State) : Event s { s with receiver := { s.receiver with muteCause := .duplicate } }
  | timingTaken (s : State) (f : Frame) (t0 : Nat) (hf : f.station.toNat < s.shelfSize) : Event s (s.takeTiming f t0)
  | reportTaken (s : State) (o : Occasion) (f : Frame) : Event s (s.takeReport o f)
  | zoneBytesTaken (s : State) (o : Occasion) (f : Frame) : Event s (s.takeZoneBytes o f)

/-- Event after event leads from `s` to `t`. -/
def State.Leads (s t : State) : Prop := Relation.ReflTransGen State.Event s t

theorem State.Leads.refl (s : State) : s.Leads s := Relation.ReflTransGen.refl

theorem State.Leads.trans {s t u : State} (h : s.Leads t) (k : t.Leads u) : s.Leads u := Relation.ReflTransGen.trans h k

theorem State.Leads.single {s t : State} (h : s.Event t) : s.Leads t := Relation.ReflTransGen.single h

/-- An event first. -/
theorem State.Leads.head {s t u : State} (h : s.Event t) (k : t.Leads u) : s.Leads u := Relation.ReflTransGen.head h k

/-- What every event keeps, every chain of events keeps. -/
theorem State.Leads.keeps {P : State → Prop} (hP : ∀ s t : State, s.Event t → P s → P t) {s t : State}
    (h : s.Leads t) (hs : P s) : P t := by
  induction h with
  | refl => exact hs
  | tail _ e ih => exact hP _ _ e ih

theorem State.leads_after (s : State) (o : Occasion) : s.Leads (s.after o) :=
  .single (State.Event.clock s _ (Nat.le_add_right _ _))

theorem State.leads_notBefore (s : State) (t : Nat) : s.Leads (s.notBefore t) :=
  .single (State.Event.clock s _ (Nat.le_max_left _ _))

theorem State.leads_answer (s : State) (r : Result) (p : List Byte) : s.Leads (s.answer r p) :=
  .single (State.Event.port s (s.answer r p).port rfl (fun h => by cases h))

/-! ### The board port -/

/-- A command whose action is a chain of events is one. -/
theorem portCommand_leads {o : Occasion} {changes : Bool} {phases : LinePhase → Bool} {inRange : State → Bool}
    {act : State → State} {s t : State} (h : portCommand o changes phases inRange act s = .next t)
    (ha : ∀ u : State, u.port.transaction = .command → phases u.line.phase = true → u.Leads (act u)) : s.Leads t := by
  unfold portCommand at h
  refine (s.leads_after o).trans ?_
  simp only at h
  split at h
  · rename_i hc
    split at h
    · cases h
      exact State.leads_answer _ _ _
    · rename_i hr
      cases h
      refine ha _ hc ?_
      by_contra hp
      unfold refusal at hr
      split at hr
      · cases hr
      · rw [if_pos (by simpa using hp)] at hr
        cases hr
  · cases h
    exact State.Leads.refl _

theorem execUnknown_leads {o : Occasion} {code : Byte} {s t : State} (h : execUnknown o code s = .next t) :
    s.Leads t :=
  portCommand_leads h fun u _ _ => u.leads_answer _ _

theorem execReadStation_leads {o : Occasion} {s t : State} (h : execReadStation o s = .next t) : s.Leads t :=
  portCommand_leads h fun u _ _ => u.leads_answer _ _

theorem execReadLine_leads {o : Occasion} {s t : State} (h : execReadLine o s = .next t) : s.Leads t :=
  portCommand_leads h fun u _ _ => u.leads_answer _ _

theorem execReadPeer_leads {o : Occasion} {n : Byte} {s t : State} (h : execReadPeer o n s = .next t) : s.Leads t :=
  portCommand_leads h fun u _ _ => u.leads_answer _ _

theorem execReadZones_leads {o : Occasion} {s t : State} (h : execReadZones o s = .next t) : s.Leads t :=
  portCommand_leads h fun u _ _ => u.leads_answer _ _

theorem execReadTrip_leads {o : Occasion} {z : Byte} {s t : State} (h : execReadTrip o z s = .next t) :
    s.Leads t := by
  refine portCommand_leads h fun u _ _ => ?_
  split <;> exact State.leads_answer _ _ _

theorem execReadRail_leads {o : Occasion} {r : Byte} {s t : State} (h : execReadRail o r s = .next t) : s.Leads t :=
  portCommand_leads h fun u _ _ => u.leads_answer _ _

theorem execTakeRecord_leads {o : Occasion} {s t : State} (h : execTakeRecord o s = .next t) : s.Leads t := by
  refine portCommand_leads h fun u _ _ => ?_
  split
  · rename_i x rest hr
    exact .head (State.Event.recordTaken u x rest hr) (State.leads_answer _ _ _)
  · exact State.leads_answer _ _ _

theorem execSetDemand_leads {o : Occasion} {mask : Byte} {s t : State} (h : execSetDemand o mask s = .next t) :
    s.Leads t :=
  portCommand_leads h fun u _ _ => .head (State.Event.demandSet u o mask) (State.leads_answer _ _ _)

theorem execClearZone_leads {o : Occasion} {z : Byte} {s t : State} (h : execClearZone o z s = .next t) : s.Leads t :=
  portCommand_leads h fun u _ _ => .head (State.Event.zoneCleared u o _) (State.leads_answer _ _ _)

theorem execAckFlags_leads {o : Occasion} {mask : Half} {s t : State} (h : execAckFlags o mask s = .next t) :
    s.Leads t :=
  portCommand_leads h fun u hc _ =>
    .head (State.Event.port u { u.port with flags := u.port.flags &&& ~~~(mask.setWidth 9) } rfl fun _ => .inl hc)
      (State.leads_answer _ _ _)

theorem execSetAlertMask_leads {o : Occasion} {mask : Half} {s t : State} (h : execSetAlertMask o mask s = .next t) :
    s.Leads t :=
  portCommand_leads h fun u hc _ =>
    .head (State.Event.port u { u.port with mask := mask.setWidth 9 } rfl fun _ => .inl hc) (State.leads_answer _ _ _)

theorem execResumeLine_leads {o : Occasion} {s t : State} (h : execResumeLine o s = .next t) : s.Leads t :=
  portCommand_leads h fun u _ hp =>
    .head (State.Event.resumed u o (of_decide_eq_true hp)) (State.leads_answer _ _ _)

theorem execRestart_leads {o : Occasion} {s t : State} (h : execRestart o s = .next t) : s.Leads t :=
  portCommand_leads h fun u hc _ => .head (State.Event.restartAccepted u o hc) (State.leads_answer _ _ _)

theorem execReload_leads {o : Occasion} {straps : BitVec 5} {s t : State} (h : execReload o straps s = .next t) :
    s.Leads t :=
  portCommand_leads h fun u _ hp =>
    .head (State.Event.reloaded u straps (of_decide_eq_true hp)) (State.leads_answer _ _ _)

/-! ### Transactions -/

theorem execTransactionBegin_leads {o : Occasion} {s t : State} (h : execTransactionBegin o s = .next t) :
    s.Leads t := by
  unfold execTransactionBegin at h
  refine (s.leads_after o).trans ?_
  simp only at h
  split at h <;> cases h
  · exact State.Leads.refl _
  · refine .single (State.Event.port (s.after o) _ rfl fun hc => .inr ?_)
    by_contra hr
    have hr : s.startup.inReset.isSome = true := Option.isSome_iff_ne_none.2 hr
    simp [hr] at hc

theorem execTransactionEnd_leads {o : Occasion} {mosi : List Bool} {s t : State}
    (h : execTransactionEnd o mosi s = .next t) : s.Leads t := by
  unfold execTransactionEnd at h
  simp only [Host.Outcome.next.injEq] at h
  subst h
  exact (s.leads_after o).trans (.single (State.Event.port (s.after o) _ rfl (fun hc => by cases hc)))

/-! ### Resets, loads and demand -/

theorem execPowerOn_leads {o : Occasion} {straps : BitVec 5} {s t : State} (h : execPowerOn o straps s = .next t) :
    s.Leads t := by
  unfold execPowerOn at h
  refine (s.leads_after o).trans ?_
  simp only at h
  split at h <;> cases h
  · exact .single (State.Event.resetEnds _ _ _)
  · exact .single (State.Event.resetBegins _ _ (s.after o).startup.resetN)

theorem execResetNLow_leads {o : Occasion} {s t : State} (h : execResetNLow o s = .next t) : s.Leads t := by
  unfold execResetNLow at h
  refine (s.leads_after o).trans ?_
  simp only at h
  split at h <;> cases h
  · exact .single (State.Event.resetBegins _ _ false)
  · exact State.Leads.refl _

theorem execResetNHigh_leads {o : Occasion} {straps : BitVec 5} {s t : State}
    (h : execResetNHigh o straps s = .next t) : s.Leads t := by
  unfold execResetNHigh at h
  refine (s.leads_after o).trans ?_
  simp only at h
  split at h <;> cases h
  · exact State.Leads.refl _
  · exact .single (State.Event.resetEnds _ _ _)

theorem execConfigurationLoadEnd_leads {o : Occasion} {image : List Byte} {s t : State}
    (h : execConfigurationLoadEnd o image s = .next t) : s.Leads t := by
  unfold execConfigurationLoadEnd at h
  simp only at h
  split at h
  · cases h
    exact s.leads_after o
  · rename_i began hl
    have hl : s.startup.load ≠ .idle := by simp [hl]
    generalize hn : max s.now _ = n at h
    refine .head (State.Event.clock s n (by omega)) ?_
    split at h <;> cases h
    · exact .single (State.Event.loadFailed _ _ _ hl)
    · rename_i img hj
      exact .single (State.Event.loaded _ o image img hl hj)

theorem execReinitialisation_leads {o : Occasion} {straps : BitVec 5} {s t : State}
    (h : execReinitialisation o straps s = .next t) : s.Leads t := by
  unfold execReinitialisation at h
  refine (s.leads_after o).trans ?_
  simp only at h
  split at h <;> cases h
  · rename_i hr
    exact .single (State.Event.reinitialised _ straps hr)
  · exact State.Leads.refl _

theorem execDemandPinTaken_leads {o : Occasion} {pin : DemPin} {s t : State}
    (h : execDemandPinTaken o pin s = .next t) : s.Leads t := by
  unfold execDemandPinTaken at h
  refine (s.leads_after o).trans ?_
  simp only at h
  split at h <;> cases h
  · exact State.Leads.refl _
  · exact (State.leads_notBefore _ _).trans (.single (State.Event.pinTaken _ o pin))

/-! ### Rail timers -/

theorem execSettleTimerExpiry_leads {o : Occasion} {r : RailIx} {s t : State}
    (h : execSettleTimerExpiry o r s = .next t) : s.Leads t := by
  unfold execSettleTimerExpiry at h
  refine (s.leads_after o).trans ?_
  simp only at h
  split at h
  · rename_i c x hc hx
    refine (State.leads_notBefore _ x.due).trans ?_
    split at h <;> cases h
    · rename_i hs
      exact .single (State.Event.settleExpired _ o r c hc hs.1)
    · exact State.Leads.refl _
  · cases h
    exact State.Leads.refl _

/-- The expiry of a timer that faults its rail. -/
theorem expiry_leads {o : Occasion} {r : RailIx} {k : FaultKind} {s t : State} {x : Option Timer}
    (h : (match x with
      | some d => Host.Outcome.next ((s.notBefore d.due).faultRail o r k)
      | none => .next s : Host.Outcome State Fault Refusal) = .next t) : s.Leads t := by
  cases x <;> cases h
  · exact State.Leads.refl _
  · exact (State.leads_notBefore _ _).trans (.single (State.Event.faulted _ o r k))

theorem execDrainForced_leads {o : Occasion} {r : RailIx} {s t : State} (h : execDrainForced o r s = .next t) :
    s.Leads t := by
  unfold execDrainForced at h
  refine (s.leads_after o).trans ?_
  simp only at h
  split at h
  · rename_i c x hc hx
    refine (State.leads_notBefore _ x.due).trans ?_
    split at h <;> cases h
    · rename_i hs
      exact .single (State.Event.drainForced _ o r c x hc hs hx)
    · exact State.Leads.refl _
  · cases h
    exact State.Leads.refl _

theorem execDrainContinued_leads {o : Occasion} {r : RailIx} {s t : State} (h : execDrainContinued o r s = .next t) :
    s.Leads t := by
  unfold execDrainContinued at h
  refine (s.leads_after o).trans ?_
  simp only at h
  split at h
  · rename_i c hc
    split at h <;> cases h
    · rename_i hs
      exact (State.leads_notBefore _ _).trans (.single (State.Event.drainContinued _ r c _ hc hs.1))
    · exact State.Leads.refl _
  · cases h
    exact State.Leads.refl _

/-! ### Samples -/

/-- Neither the instant, the next sample instant nor the start-up block differs. -/
structure State.SameClock (s t : State) : Prop where
  now : t.now = s.now
  nextSample : t.monitor.nextSample = s.monitor.nextSample
  startup : t.startup = s.startup

theorem State.MovesTo.sameClock {s t : State} (h : s.MovesTo t) : s.SameClock t := ⟨h.now, h.nextSample, h.startup⟩

theorem State.SameClock.trans {s t u : State} (h : s.SameClock t) (k : t.SameClock u) : s.SameClock u :=
  ⟨k.now.trans h.now, k.nextSample.trans h.nextSample, k.startup.trans h.startup⟩

theorem State.faultRail_sameClock (s : State) (o : Occasion) (r : RailIx) (k : FaultKind) :
    s.SameClock (s.faultRail o r k) := by
  unfold State.faultRail
  split
  · exact ⟨rfl, rfl, rfl⟩
  · rename_i c hc
    split
    · obtain ⟨-, hn, hs, -, -, -, hx, -⟩ := (State.enterFault_settle hc k o).frame
      exact ⟨hn, hx, hs⟩
    · exact ⟨rfl, rfl, rfl⟩

theorem State.qualify_sameClock (s : State) (o : Occasion) (c : RailConfig) (r : RailIx)
    (hc : s.fittedConfig r = some c) (hs : (s.rails.get r).state = .ramping) : s.SameClock (s.qualify o c r) := by
  have hm : s.movable r := State.movable_of hc (by simp [hs]) (by simp [hs])
  refine State.MovesTo.sameClock ?_
  unfold State.qualify
  simp only
  generalize s.makeRecord r .ramp .none (s.widthSince (s.rails.get r).since) false = x
  have hq := State.movable_queueRecord x hm
  refine (State.MovesTo.queueRecord s x).trans (State.MovesTo.trans ?_ (State.settle_moves _ o))
  split
  · exact State.MovesTo.enter _ hq
  · exact State.MovesTo.enterDraining c hq

theorem State.discharged_sameClock (s : State) (o : Occasion) (r : RailIx) : s.SameClock (s.discharged o r) := by
  refine State.SameClock.trans ?_ (State.settle_moves _ o).sameClock
  constructor <;> simp

theorem State.supervisePg_leads (s : State) (c : RailConfig) (r : RailIx) (hc : s.fittedConfig r = some c)
    (hs : (s.rails.get r).state = .good ∨ (s.rails.get r).state = .draining)
    (hn : s.monitor.nextSample = s.now + Config.samplePeriod)
    (ho : c.pgUsed = true → s.overdue (s.monitor.rails.get r).deglitch = false) :
    s.Leads (s.supervisePg c r).1 ∧ s.SameClock (s.supervisePg c r).1 := by
  have same : s.Leads s ∧ s.SameClock s := ⟨State.Leads.refl s, rfl, rfl, rfl⟩
  unfold State.supervisePg
  dsimp only
  split
  · exact same
  rename_i hp
  split
  · rename_i hd
    split
    · exact same
    split
    · exact same
    · exact ⟨.single (State.Event.deglitchStarts s r c hc hs hn), rfl, rfl, rfl⟩
  · rename_i t hd
    split
    · exact ⟨.single (State.Event.dropoutEnds s r c t hc hd (hd ▸ ho (by simpa using hp)) hn), by simp, by simp,
        by simp⟩
    · exact same

theorem State.supervise_leads (s : State) (o : Occasion) (c : RailConfig) (r : RailIx) (cls : SampleClass)
    (hc : s.fittedConfig r = some c) (hs : (s.rails.get r).state = .good ∨ (s.rails.get r).state = .draining)
    (hn : s.monitor.nextSample = s.now + Config.samplePeriod) :
    s.Leads (s.supervise o c r cls) ∧ s.SameClock (s.supervise o c r cls) := by
  unfold State.supervise
  dsimp only
  split
  · exact ⟨.single (State.Event.faulted s o r .pgLost), State.faultRail_sameClock _ _ _ _⟩
  rename_i hl
  generalize (if cls = .inWindow then 0 else (s.monitor.rails.get r).outside + 1) = count
  generalize hu : s.setMonitor r { s.monitor.rails.get r with outside := count } = u
  have hcount : s.Leads u :=
    hu ▸ .single (State.Event.counted s r count (by rcases hs with h | h <;> simp [h])
      (by rcases hs with h | h <;> simp [h]) (by rcases hs with h | h <;> simp [h]))
  have hk : s.SameClock u := hu ▸ ⟨rfl, rfl, rfl⟩
  have hd : (u.monitor.rails.get r).deglitch = (s.monitor.rails.get r).deglitch := by simp [← hu]
  have hon : c.pgUsed = true → u.overdue (u.monitor.rails.get r).deglitch = false := by
    intro hp
    rw [hp, Bool.true_and, Bool.not_eq_true] at hl
    rw [hd]
    subst hu
    exact hl
  obtain ⟨hpg, hk'⟩ := State.supervisePg_leads u c r (by subst hu; exact hc) (by subst hu; exact hs)
    (by subst hu; exact hn) hon
  have fault (k : FaultKind) : s.Leads ((u.supervisePg c r).1.faultRail o r k) ∧
      s.SameClock ((u.supervisePg c r).1.faultRail o r k) :=
    ⟨(hcount.trans hpg).trans (.single (State.Event.faulted _ o r k)),
      (hk.trans hk').trans (State.faultRail_sameClock _ _ _ _)⟩
  split
  · exact fault _
  split
  · exact fault _
  · exact ⟨hcount.trans hpg, hk.trans hk'⟩

theorem State.watchBackfeed_leads (s : State) (o : Occasion) (c : RailConfig) (r : RailIx) (cls : SampleClass)
    (hs : (s.rails.get r).state = .off ∨ (s.rails.get r).state = .waiting ∨ (s.rails.get r).state = .settling) :
    s.Leads (s.watchBackfeed o c r cls) ∧ s.SameClock (s.watchBackfeed o c r cls) := by
  unfold State.watchBackfeed
  simp only
  generalize (if cls = .below then 0 else (s.monitor.rails.get r).outside + 1) = count
  have other (st : RailState) (h : st ∉ [RailState.off, .waiting, .settling]) : (s.rails.get r).state ≠ st := by
    rintro rfl
    exact h (by simpa using hs)
  have hcount : s.Leads (s.setMonitor r { s.monitor.rails.get r with outside := count }) :=
    .single (State.Event.counted s r count (other _ (by simp)) (other _ (by simp)) (other _ (by simp)))
  have hk : s.SameClock (s.setMonitor r { s.monitor.rails.get r with outside := count }) := ⟨rfl, rfl, rfl⟩
  split
  · exact ⟨hcount.trans (.single (State.Event.faulted _ o r _)), hk.trans (State.faultRail_sameClock _ _ _ _)⟩
  · exact ⟨hcount, hk⟩

/-- A rail's sample is a chain of events of one instant. -/
theorem State.actOnSample_leads (s : State) (o : Occasion) (r : RailIx)
    (hn : s.monitor.nextSample = s.now + Config.samplePeriod) :
    s.Leads (s.actOnSample o r) ∧ s.SameClock (s.actOnSample o r) := by
  have same : s.Leads s ∧ s.SameClock s := ⟨State.Leads.refl s, rfl, rfl, rfl⟩
  have fault (k : FaultKind) : s.Leads (s.faultRail o r k) ∧ s.SameClock (s.faultRail o r k) :=
    ⟨.single (State.Event.faulted s o r k), State.faultRail_sameClock _ _ _ _⟩
  unfold State.actOnSample
  cases hc : s.fittedConfig r with
  | none => exact same
  | some c =>
    cases hs : (s.rails.get r).state <;> simp only
    case ramping =>
      split
      · exact fault _
      · rename_i ht
        split
        · exact ⟨.single (State.Event.qualified s o r c hc hs (by simpa using ht)),
            State.qualify_sameClock s o c r hc hs⟩
        · exact same
    case falling =>
      split
      · exact fault _
      · rename_i ht
        split
        · exact ⟨.single (State.Event.discharged s o r c hc hs (by simpa using ht)), State.discharged_sameClock s o r⟩
        · exact same
    case good => exact State.supervise_leads s o c r _ hc (.inl hs) hn
    case draining => exact State.supervise_leads s o c r _ hc (.inr hs) hn
    case off => exact State.watchBackfeed_leads s o c r _ (.inl hs)
    case waiting => exact State.watchBackfeed_leads s o c r _ (.inr (.inl hs))
    case settling => exact State.watchBackfeed_leads s o c r _ (.inr (.inr hs))
    case fault => exact same

theorem State.actOnSamples_leads (o : Occasion) (l : List RailIx) (s : State)
    (hn : s.monitor.nextSample = s.now + Config.samplePeriod) :
    s.Leads (l.foldl (fun v r => v.actOnSample o r) s) := by
  induction l generalizing s with
  | nil => exact State.Leads.refl s
  | cons r l ih =>
    obtain ⟨h, k⟩ := State.actOnSample_leads s o r hn
    exact h.trans (ih _ (by rw [k.nextSample, k.now, hn]))

/-- The next sample instant is not before the instant asked for. -/
theorem le_sampleInstant (next t : Nat) : t ≤ sampleInstant next t := by
  simp only [sampleInstant, Config.samplePeriod, Config.us]
  omega

theorem execSample_leads {o : Occasion} {counts : Four (BitVec 12)} {pg : Four Bool} {s t : State}
    (h : execSample o counts pg s = .next t) : s.Leads t := by
  unfold execSample at h
  refine (s.leads_after o).trans ?_
  simp only at h
  split at h <;> cases h
  · exact State.Leads.refl _
  · have ht := le_sampleInstant (s.after o).monitor.nextSample (s.after o).now
    generalize ha : sampleInstant (s.after o).monitor.nextSample (s.after o).now = a at ht
    have hm : max (s.after o).now a = a := Nat.max_eq_right ht
    refine .head (State.Event.sampled (s.after o) counts pg a _ ht ha.symm) ?_
    have := State.actOnSamples_leads o (railOrder o) ({ s.after o with
        now := a
        monitor := { (s.after o).monitor with nextSample := a + Config.samplePeriod } }.storeSamples counts pg) rfl
    simpa only [State.notBefore, hm] using this

/-! ### The shelf line -/

theorem State.slotEnd_leads (s : State) (o : Occasion) (k : Nat) (hs : s.line.slotTimer ≠ none) :
    s.Leads (s.slotEnd o k) := by
  have check (t : State) (ht : s.Leads t) :
      s.Leads (if t.line.timingHeld ∧ k ≠ t.own then t.missCheck o k else t) := by
    split
    · exact ht.trans (.single (State.Event.missChecked t o k))
    · exact ht
  refine check _ ?_
  split
  · exact .single (State.Event.ownSlotEnds s (.inr (.inr (.inr (.inr (.inl hs))))))
  · exact State.Leads.refl s

theorem State.slotStart_leads (s : State) (o : Occasion) (k t : Nat) (hs : s.line.slotTimer ≠ none)
    (hk : s.shelfSize = 0 ∨ k < s.shelfSize) : s.Leads (s.slotStart o k t) := by
  have count (u : State) : u.Leads (if u.line.timingHeld then u.countListen o else u) := by
    split
    · exact .single (State.Event.listenCounted u o)
    · exact State.Leads.refl u
  exact .head (State.Event.slotBegins s k t hs hk) (count _)

theorem State.judgeAll_keeps (s : State) (o : Occasion) : (s.judgeAll o).startup = s.startup ∧
    (s.judgeAll o).line = s.line := by
  unfold State.judgeAll
  generalize viewOrder o = l
  induction l generalizing s with
  | nil => exact ⟨rfl, rfl⟩
  | cons v l ih =>
    obtain ⟨a, b⟩ := ih (s.judge o v)
    have hm := State.settle_moves (s.takeView v) o
    have hv : (s.takeView v).startup = s.startup ∧ (s.takeView v).line = s.line := by cases v <;> exact ⟨rfl, rfl⟩
    exact ⟨a.trans (hm.startup.trans hv.1), b.trans (hm.line.trans hv.2)⟩

theorem State.missCheck_keeps (s : State) (o : Occasion) (k : Nat) : (s.missCheck o k).startup = s.startup ∧
    (s.missCheck o k).line = s.line := by
  unfold State.missCheck
  split
  · split
    · obtain ⟨a, b⟩ := State.judgeAll_keeps ((s.updatePeer k Peer.missed).setFlagIf _ .peerLost) o
      rw [a, b, State.setFlagIf_eq]
      exact ⟨rfl, rfl⟩
    · exact ⟨rfl, rfl⟩
  · exact ⟨rfl, rfl⟩

theorem State.slotEnd_keeps (s : State) (o : Occasion) (k : Nat) : (s.slotEnd o k).startup = s.startup ∧
    (s.slotEnd o k).line.slotTimer = s.line.slotTimer := by
  have check (t : State) (ht : t.startup = s.startup ∧ t.line.slotTimer = s.line.slotTimer) (p : Prop) [Decidable p] :
      (if p then t.missCheck o k else t).startup = s.startup ∧
      (if p then t.missCheck o k else t).line.slotTimer = s.line.slotTimer := by
    split
    · obtain ⟨a, b⟩ := t.missCheck_keeps o k
      rw [a, b]
      exact ht
    · exact ht
  refine check _ ?_ _
  split <;> exact ⟨rfl, rfl⟩

theorem State.countListen_timer (s : State) (o : Occasion) :
    (s.countListen o).line.slotTimer = s.line.slotTimer := by
  unfold State.countListen
  dsimp only
  split
  · split
    · rw [(State.settle_moves _ o).line]
    · rfl
  · rfl

theorem State.slotStart_timer (s : State) (o : Occasion) (k t : Nat) :
    (s.slotStart o k t).line.slotTimer = some { slot := k, start := t } := by
  have count (u : State) : (if u.line.timingHeld then u.countListen o else u).line.slotTimer = u.line.slotTimer := by
    split
    · exact u.countListen_timer o
    · rfl
  exact count _

theorem execSlotBoundary_leads {o : Occasion} {s t : State} (h : execSlotBoundary o s = .next t) : s.Leads t := by
  unfold execSlotBoundary at h
  refine (s.leads_after o).trans ?_
  simp only at h
  split at h
  · cases h
    exact State.Leads.refl _
  · rename_i x hx
    refine (State.leads_notBefore _ (x.start + Config.slotLength)).trans ?_
    generalize hu : (s.after o).notBefore (x.start + Config.slotLength) = u at h
    have hs : u.line.slotTimer ≠ none := by
      subst hu
      exact hx ▸ Option.some_ne_none x
    have hk : u.shelfSize = 0 ∨ (if x.slot + 1 < u.shelfSize then x.slot + 1 else 0) < u.shelfSize := by
      split <;> omega
    split at h <;> cases h
    · exact (State.slotStart_leads u o _ _ hs hk).trans
        (State.slotEnd_leads _ o _ (by rw [State.slotStart_timer]; simp))
    · obtain ⟨a, b⟩ := u.slotEnd_keeps o x.slot
      exact (State.slotEnd_leads u o _ hs).trans
        (State.slotStart_leads _ o _ _ (by rw [b]; exact hs) (by rw [State.shelfSize_congr a]; exact hk))

theorem execFrameBuild_leads {o : Occasion} {s t : State} (h : execFrameBuild o s = .next t) : s.Leads t := by
  unfold execFrameBuild at h
  refine (s.leads_after o).trans ?_
  simp only at h
  split at h
  · rename_i img x hc hx
    split at h <;> cases h
    · exact (State.leads_notBefore _ _).trans (.single (State.Event.frameBuilt _ img _ _ _ hc))
    · exact State.Leads.refl _
  · cases h
    exact State.Leads.refl _

theorem execCollision_leads {o : Occasion} {s t : State} (h : execCollision o s = .next t) : s.Leads t := by
  unfold execCollision at h
  refine (s.leads_after o).trans ?_
  simp only at h
  split at h
  · rename_i f hs hf
    refine .head (State.Event.cutOff _ f hs hf) ?_
    split at h
    · cases h
      exact .single (State.Event.listens _ o (.inr (.inr (.inr (.inl (by simp))))))
    · refine .head (State.Event.collisionCounted _) ?_
      split at h <;> cases h
      · exact .single (State.Event.muted _ o _ (.inr (.inr (.inr (.inl (by simp))))))
      · exact State.Leads.refl _
  · cases h
    exact State.Leads.refl _

theorem execOwnFrameEnd_leads {o : Occasion} {s t : State} (h : execOwnFrameEnd o s = .next t) : s.Leads t := by
  unfold execOwnFrameEnd at h
  refine (s.leads_after o).trans ?_
  simp only at h
  split at h
  · rename_i f hs hf
    cases h
    exact (State.leads_notBefore _ _).trans (.single (State.Event.ownFrameEnds _ f hs hf))
  · cases h
    exact State.Leads.refl _

theorem execColdStart_leads {o : Occasion} {s t : State} (h : execColdStart o s = .next t) : s.Leads t := by
  unfold execColdStart at h
  refine (s.leads_after o).trans ?_
  simp only at h
  split at h
  · cases h
    exact State.Leads.refl _
  · rename_i x hx
    split at h
    · rename_i hp
      refine (State.leads_notBefore _ (x + (s.after o).silenceWait)).trans ?_
      split at h <;> cases h
      · exact .single (State.Event.silenceSet _ none)
      · rename_i hr
        exact .single (State.Event.coldStarted _ o hp.1 (by simpa using hr))
    · cases h
      exact State.Leads.refl _

/-- A frame start takes the receiver out of OFF in no state. -/
theorem Reception.atFrameStart_ne_off {x : Reception} (t : Nat) (h : x ≠ .off) : x.atFrameStart t ≠ .off := by
  unfold Reception.atFrameStart
  split
  · simp
  · split <;> simp
  all_goals simp_all

theorem execFrameStart_leads {o : Occasion} {s t : State} (h : execFrameStart o s = .next t) : s.Leads t := by
  unfold execFrameStart at h
  refine (s.leads_after o).trans ?_
  simp only at h
  split at h <;> cases h
  · exact State.Leads.refl _
  · rename_i hr
    refine .head (State.Event.silenceSet _ ((s.after o).line.silence.map fun _ => (s.after o).now)) ?_
    exact .single (State.Event.reception _ _ hr (Reception.atFrameStart_ne_off _ hr))

/-! ### Frames received -/

theorem State.takeDuplicate_leads (s : State) (o : Occasion) : s.Leads (s.takeDuplicate o) := by
  unfold State.takeDuplicate
  split
  · rename_i h
    exact .single (State.Event.muted s o _ (.inl h))
  · rename_i h
    exact .single (State.Event.muted s o _ (.inr (.inl h)))
  · exact .single (State.Event.duplicateInMuted s)
  · exact State.Leads.refl s
  · exact State.Leads.refl s

theorem State.refuseFrame_leads (s : State) (o : Occasion) (e : ErrorKind) : s.Leads (s.refuseFrame o e) := by
  refine .head (State.Event.errorCounted s e) ?_
  unfold State.refuseFrame
  simp only
  split
  · exact State.takeDuplicate_leads _ o
  · exact State.Leads.refl _

theorem State.takeTiming_startup (s : State) (f : Frame) (t0 : Nat) : (s.takeTiming f t0).startup = s.startup := by
  unfold State.takeTiming
  simp only
  split
  · split <;> rfl
  · rfl

theorem State.takeReport_startup (s : State) (o : Occasion) (f : Frame) : (s.takeReport o f).startup = s.startup := by
  unfold State.takeReport
  simp only
  rw [(State.judgeAll_keeps _ o).1, State.setFlagIf_eq, State.setFlagIf_eq]
  rfl

theorem State.takeZoneBytes_startup (s : State) (o : Occasion) (f : Frame) :
    (s.takeZoneBytes o f).startup = s.startup := by
  unfold State.takeZoneBytes
  simp only
  rw [(State.settle_moves _ o).startup, State.takeDownAll_eq, State.releaseFaults_eq, State.setFlagIf_eq,
    State.setFlagIf_eq]

/-- A valid frame's sender is a station of the shelf. -/
theorem judgeFrame_station {img : Image} {own : Nat} {rx : List RxByte} {f : Frame}
    (h : judgeFrame img own rx = .valid f) : f.station.toNat < img.shelfSize := by
  unfold judgeFrame at h
  simp only at h
  split at h
  · cases h
  split at h
  · cases h
  split at h
  · cases h
  split at h
  · cases h
  rename_i n hn
  split at h
  · cases h
  split at h
  · cases h
  split at h
  · cases h
  rename_i hst
  split at h
  · cases h
  cases h
  have hn2 : 2 ≤ n := by
    unfold expectedLength at hn
    split at hn
    · cases hn
    split at hn
    · cases hn
    · simp only [Option.some.injEq] at hn
      omega
  have hb : byteAt ((rx.map (·.data)).take n) 1 = byteAt (rx.map (·.data)) 1 := by
    simp only [byteAt, List.getD_eq_getElem?_getD]
    rw [List.getElem?_take_of_lt (by omega)]
  simp only [Frame.ofBytes, hb]
  omega

theorem State.takeFrame_leads (s : State) (o : Occasion) (f : Frame) (t0 : Nat) (hf : f.station.toNat < s.shelfSize) :
    s.Leads (s.takeFrame o f t0) := by
  unfold State.takeFrame
  generalize blockOrder o = l
  induction l generalizing s with
  | nil => exact State.Leads.refl s
  | cons b l ih =>
    have hb : s.Leads (s.handTo o f t0 b) ∧ (s.handTo o f t0 b).startup = s.startup := by
      cases b
      · exact ⟨.single (State.Event.timingTaken s f t0 hf), s.takeTiming_startup f t0⟩
      · exact ⟨.single (State.Event.reportTaken s o f), s.takeReport_startup o f⟩
      · exact ⟨.single (State.Event.zoneBytesTaken s o f), s.takeZoneBytes_startup o f⟩
    exact hb.1.trans (ih _ (by rw [State.shelfSize_congr hb.2]; exact hf))

theorem State.judgeReceived_leads (s : State) (o : Occasion) (t0 : Nat) (ended : Option Nat) (rx : List RxByte)
    (hs : s.receiver.reception ≠ .off) : s.Leads (s.judgeReceived o t0 ended rx) := by
  refine .head (State.Event.reception s (.waiting ended) hs (by simp)) ?_
  unfold State.judgeReceived
  simp only
  split
  · exact State.Leads.refl _
  · rename_i img hc
    split
    · exact State.refuseFrame_leads _ o _
    · rename_i f hf
      refine State.takeFrame_leads _ o f t0 ?_
      simpa [State.shelfSize, hc] using judgeFrame_station hf

theorem execFrameReceived_leads {o : Occasion} {bytes : List RxByte} {s t : State}
    (h : execFrameReceived o bytes s = .next t) : s.Leads t := by
  unfold execFrameReceived at h
  refine (s.leads_after o).trans ?_
  simp only at h
  split at h
  · rename_i t0 n hr _
    have hr : (s.after o).receiver.reception ≠ .off := fun e => by rw [e] at hr; cases hr
    split at h <;> cases h
    · exact (State.leads_notBefore _ _).trans (State.judgeReceived_leads _ o _ _ _ hr)
    · exact State.Leads.refl _
  · cases h
    exact State.Leads.refl _

theorem execReceptionGap_leads {o : Occasion} {bytes : List RxByte} {s t : State}
    (h : execReceptionGap o bytes s = .next t) : s.Leads t := by
  unfold execReceptionGap at h
  refine (s.leads_after o).trans ?_
  simp only at h
  split at h
  · rename_i t0 hr
    have hr : (s.after o).receiver.reception ≠ .off := fun e => by rw [e] at hr; cases hr
    refine (State.leads_notBefore _ (t0 + Config.us (10 * bytes.length) + Config.frameGap)).trans ?_
    split at h <;> cases h
    · exact .single (State.Event.reception _ _ hr (by simp))
    · exact State.judgeReceived_leads _ o _ _ _ hr
  · cases h
    exact State.Leads.refl _

/-! ### Every command and every step -/

/-- Every command is a chain of events. -/
theorem exec_leads {i : Instr} {s t : State} (h : exec i s = .next t) : s.Leads t := by
  cases i with
  | powerOn o straps => exact execPowerOn_leads h
  | resetNLow o => exact execResetNLow_leads h
  | resetNHigh o straps => exact execResetNHigh_leads h
  | configurationLoadEnd o image => exact execConfigurationLoadEnd_leads h
  | transactionBegin o => exact execTransactionBegin_leads h
  | transactionEnd o mosi => exact execTransactionEnd_leads h
  | unknown o code => exact execUnknown_leads (code := code) h
  | readStation o => exact execReadStation_leads h
  | readLine o => exact execReadLine_leads h
  | readPeer o n => exact execReadPeer_leads h
  | readZones o => exact execReadZones_leads h
  | readTrip o z => exact execReadTrip_leads h
  | readRail o r => exact execReadRail_leads h
  | takeRecord o => exact execTakeRecord_leads h
  | setDemand o mask => exact execSetDemand_leads h
  | clearZone o z => exact execClearZone_leads h
  | ackFlags o mask => exact execAckFlags_leads h
  | setAlertMask o mask => exact execSetAlertMask_leads h
  | resumeLine o => exact execResumeLine_leads h
  | restart o => exact execRestart_leads h
  | reload o straps => exact execReload_leads h
  | reinitialisation o straps => exact execReinitialisation_leads h
  | demandPinChange o pin =>
    cases h
    exact (s.leads_after o).trans (.single (State.Event.pinChanged _ pin))
  | demandPinTaken o pin => exact execDemandPinTaken_leads h
  | sample o counts pg => exact execSample_leads h
  | settleTimerExpiry o r => exact execSettleTimerExpiry_leads h
  | rampTimeout o r => exact (s.leads_after o).trans (expiry_leads h)
  | drainForced o r => exact execDrainForced_leads h
  | drainContinued o r => exact execDrainContinued_leads h
  | dischargeTimeout o r => exact (s.leads_after o).trans (expiry_leads h)
  | pgLost o r => exact (s.leads_after o).trans (expiry_leads h)
  | slotBoundary o => exact execSlotBoundary_leads h
  | frameBuild o => exact execFrameBuild_leads h
  | collision o => exact execCollision_leads h
  | ownFrameEnd o => exact execOwnFrameEnd_leads h
  | coldStart o => exact execColdStart_leads h
  | frameStart o => exact execFrameStart_leads h
  | frameReceived o bytes => exact execFrameReceived_leads h
  | receptionGap o bytes => exact execReceptionGap_leads h

/-- Every step is a chain of events. -/
theorem step_leads {s t : State} (h : step s = .next t) : s.Leads t := by
  unfold step at h
  split at h
  · cases h
    exact State.Leads.refl s
  · exact .head (State.Event.dequeued s _) (exec_leads h)

/-- What every event keeps, every step keeps. -/
theorem step_keeps {P : State → Prop} (hP : ∀ s t : State, s.Event t → P s → P t) {s t : State}
    (h : step s = .next t) (hs : P s) : P t :=
  (step_leads h).keeps hP hs

end Sys2Proof.Machine

/-! Proofs of the invariants: what the peer table shows of the other stations, and that no rail has a move left after a
step (`State.atRest`). -/

namespace Sys2Proof.Machine
open Sys2Proof

/-! ### The peer table as the view reads it -/

/-- Some entry of the peer table meets `f`. -/
theorem zipIdx_any_iff (l : List Peer) (f : Peer × Nat → Bool) :
    l.zipIdx.any f = true ↔ ∃ n p, l[n]? = some p ∧ f (p, n) = true := by
  rw [List.any_eq_true]
  constructor
  · rintro ⟨⟨p, n⟩, hp, hf⟩
    exact ⟨n, p, List.mem_zipIdx_iff_getElem?.1 hp, hf⟩
  · rintro ⟨n, p, hp, hf⟩
    exact ⟨(p, n), List.mem_zipIdx_iff_getElem?.2 hp, hf⟩

/-- What the view of the shelf reads of a peer entry (R4, R37, R76). -/
def Peer.seen (p : Peer) : Presence × Four RailState × Byte × List Byte := (p.presence, p.rails, p.demand, p.holds)

/-- The entries of the other stations are the same as the view reads them. -/
structure State.SameView (s t : State) : Prop where
  own : t.own = s.own
  peers : ∀ n, n ≠ s.own → (t.peers[n]?).map Peer.seen = (s.peers[n]?).map Peer.seen

theorem State.SameView.symm {s t : State} (h : s.SameView t) : t.SameView s :=
  ⟨h.own.symm, fun n hn => (h.peers n (h.own ▸ hn)).symm⟩

theorem State.SameView.of_eq {s t : State} (hs : t.startup = s.startup) (hp : t.peers = s.peers) : s.SameView t :=
  ⟨State.own_congr hs, fun n _ => by rw [hp]⟩

/-- An entry as the view reads it is there in both states. -/
theorem State.SameView.entry {s t : State} (h : s.SameView t) {n : Nat} {p : Peer} (hn : n ≠ s.own)
    (hp : s.peers[n]? = some p) : ∃ q, t.peers[n]? = some q ∧ q.seen = p.seen := by
  have := h.peers n hn
  rw [hp] at this
  exact Option.map_eq_some_iff.1 this

/-- A change of the own entry alone is not seen (R113). -/
theorem State.SameView.updateOwn {s t : State} (g : Peer → Peer) (hs : t.own = s.own)
    (hp : t.peers = s.peers.modify s.own g) : s.SameView t :=
  ⟨hs, fun n hn => by simp [hp, Ne.symm hn]⟩

/-- A change of an entry that keeps what the view reads is not seen. -/
theorem State.SameView.updateUnseen {s t : State} {k : Nat} {g : Peer → Peer} (hg : ∀ p, (g p).seen = p.seen)
    (hs : t.own = s.own) (hp : t.peers = s.peers.modify k g) : s.SameView t := by
  refine ⟨hs, fun n _ => ?_⟩
  rw [hp, List.getElem?_modify]
  by_cases e : k = n
  · cases s.peers[n]? <;> simp [e, hg]
  · simp [e]

/-- Whether some other station's entry meets a condition on what is seen of it depends on the view alone. -/
theorem State.SameView.any {s t : State} (h : s.SameView t) {f : Peer → Bool}
    (hf : ∀ p q : Peer, p.seen = q.seen → f p = f q) :
    t.peers.zipIdx.any (fun p => p.2 != t.own && f p.1) = s.peers.zipIdx.any (fun p => p.2 != s.own && f p.1) := by
  have half {s t : State} (h : s.SameView t)
      (hs : s.peers.zipIdx.any (fun p => p.2 != s.own && f p.1) = true) :
      t.peers.zipIdx.any (fun p => p.2 != t.own && f p.1) = true := by
    obtain ⟨n, p, hp, hn⟩ := (zipIdx_any_iff _ _).1 hs
    simp only [Bool.and_eq_true, bne_iff_ne, ne_eq] at hn
    obtain ⟨q, hq, e⟩ := h.entry hn.1 hp
    exact (zipIdx_any_iff _ _).2 ⟨n, q, hq, by simp [h.own, hn.1, hf q p e, hn.2]⟩
  rw [Bool.eq_iff_iff]
  exact ⟨half h.symm, half h⟩

theorem State.SameView.shelfDemand {s t : State} (h : s.SameView t) (ho : t.zones.ownDemand = s.zones.ownDemand)
    (z : ZoneIx) : t.shelfDemand z = s.shelfDemand z := by
  have := h.any (f := fun p => decide (p.presence = .present) && names p.demand z) fun p q e => by
    simp only [Peer.seen, Prod.mk.injEq] at e
    simp [e]
  simp only [State.shelfDemand, ho, Bool.and_assoc] at this ⊢
  rw [this]

theorem State.SameView.peersHold {s t : State} (h : s.SameView t) (r : RailIx) : t.peersHold r = s.peersHold r := by
  have := h.any (f := fun p => decide (p.presence = .present) &&
      p.holds.any (fun b => decide (Ref.ofByte b = { station := s.own, rail := r }))) fun p q e => by
    simp only [Peer.seen, Prod.mk.injEq] at e
    simp [e]
  simp only [State.peersHold, h.own, Bool.and_assoc] at this ⊢
  rw [this]

theorem State.SameView.peerRail {s t : State} (h : s.SameView t) {n : Nat} (hn : n ≠ s.own) (r : RailIx) :
    t.peerRail n r = s.peerRail n r := by
  have := h.peers n hn
  unfold State.peerRail
  cases hs : s.peers[n]? <;> cases ht : t.peers[n]? <;>
    simp_all [Peer.seen]

theorem State.SameView.remoteAll {s t : State} (h : s.SameView t) (c : RailConfig) (ok : RailState → Bool) :
    t.remoteAll c ok = s.remoteAll c ok := by
  unfold State.remoteAll
  congr 1
  funext p
  by_cases hp : p.station = s.own
  · simp [h.own, hp]
  · rw [h.own, h.peerRail hp]

/-! ### Rest without a move -/

/-- With no rail fitted, every rail is at rest (R2). -/
theorem State.atRest_of_unconfigured {s : State} (h : s.startup.config = none) : s.atRest := by
  intro r c hc
  rw [State.fittedConfig_none h] at hc
  cases hc

/-- All that the moves of Table 10 are judged by is the same in both states. -/
structure State.SameConditions (s t : State) : Prop where
  startup : t.startup = s.startup
  phase : t.line.phase = s.line.phase
  peers : s.SameView t
  ownDemand : t.zones.ownDemand = s.zones.ownDemand
  entries : t.zones.entries = s.zones.entries
  rails : ∀ r, (t.rails.get r).state = (s.rails.get r).state ∧
    (t.rails.get r).remoteGood = (s.rails.get r).remoteGood ∧
    (t.rails.get r).remoteUp = (s.rails.get r).remoteUp ∧ (t.rails.get r).peerHeld = (s.rails.get r).peerHeld

theorem State.SameConditions.atRest {s t : State} (h : s.SameConditions t) (hs : s.atRest) : t.atRest := by
  have fitted (r : RailIx) : t.fittedConfig r = s.fittedConfig r := State.fittedConfig_congr h.startup r
  have shown (r : RailIx) : t.shownState r = s.shownState r := State.shownState_congr h.startup r (h.rails r).1
  have gate (c : RailConfig) : t.gateOpen c = s.gateOpen c := by
    simp [State.gateOpen, State.demanded, State.zoneNormal, h.phase, h.startup, h.entries]
  have locals (c : RailConfig) (ok : RailState → Bool) : t.localAll c ok = s.localAll c ok := by
    simp [State.localAll, h.peers.own, shown]
  have good (c : RailConfig) (r : RailIx) : t.allGood c r = s.allGood c r := by
    simp [State.allGood, locals, (h.rails r).2.1]
  have up (c : RailConfig) (r : RailIx) : t.allUp c r = s.allUp c r := by
    simp [State.allUp, locals, (h.rails r).2.2.1]
  have may (c : RailConfig) (r : RailIx) : t.mayStart c r = s.mayStart c r := by
    simp [State.mayStart, good, h.peers.remoteAll, h.peers.shelfDemand h.ownDemand]
  have held (r : RailIx) : t.held r = s.held r := by
    simp only [State.held, State.localHeld, fitted, h.peers.own, (h.rails r).2.2.2, fun q => (h.rails q).1]
  intro r c hc
  rw [fitted] at hc
  have := hs r c hc
  rw [(h.rails r).1]
  simpa only [gate, may, good, up, held, State.demanded, State.zoneNormal, h.entries] using this

/-- Handing a record to the queue leaves every rail at rest. -/
theorem State.atRest_queueRecord {s : State} (x : TimingRecord) (h : s.atRest) : (s.queueRecord x).atRest := by
  rw [State.queueRecord_eq]
  exact h

/-! ### Rest after a judgement -/

theorem State.judge_atRest (s : State) (o : Occasion) (v : View) : (s.judge o v).atRest := State.settle_atRest _ o

/-- After judgements of every order of judgements no rail has a move left. -/
theorem State.judgeAll_atRest (s : State) (o : Occasion) : (s.judgeAll o).atRest := by
  have chain (l : List View) : ∀ t : State, t.atRest → (l.foldl (fun u v => u.judge o v) t).atRest := by
    induction l with
    | nil => exact fun t ht => ht
    | cons v l ih => exact fun t _ => ih _ (t.judge_atRest o v)
  unfold State.judgeAll
  cases h : viewOrder o with
  | nil => exact absurd (h ▸ viewOrder_mem o .holds) List.not_mem_nil
  | cons v l => exact chain l _ (s.judge_atRest o v)

/-! ### Every event -/

theorem State.missCheck_atRest {s : State} (o : Occasion) (k : Nat) (h : s.atRest) : (s.missCheck o k).atRest := by
  unfold State.missCheck
  split
  · split
    · exact State.judgeAll_atRest _ o
    · exact h
  · exact h

theorem State.countListen_atRest {s : State} (o : Occasion) (h : s.atRest) : (s.countListen o).atRest := by
  unfold State.countListen
  dsimp only
  split
  · split
    · exact State.settle_atRest _ o
    · exact h
  · exact h

theorem State.takeTiming_atRest {s : State} (f : Frame) (t0 : Nat) (h : s.atRest) : (s.takeTiming f t0).atRest := by
  unfold State.takeTiming
  dsimp only
  split
  · split <;> exact h
  · exact h

theorem State.faultRail_atRest {s : State} (o : Occasion) (r : RailIx) (k : FaultKind) (h : s.atRest) :
    (s.faultRail o r k).atRest := by
  unfold State.faultRail
  split
  · exact h
  · split
    · exact State.settle_atRest _ o
    · exact h

/-- Every event leaves every rail at rest, from a state in which it is. -/
theorem State.Event.atRest {s t : State} (e : s.Event t) (h : s.atRest) : t.atRest := by
  cases e with
  | dequeued | clock | port | recordTaken | sampled | counted | deglitchStarts | ownSlotEnds | cutOff
  | collisionCounted | ownFrameEnds | silenceSet | reception | errorCounted | duplicateInMuted => exact h
  | resetEnds | resetBegins | loadFailed | reloaded | reinitialised => exact State.atRest_of_unconfigured rfl
  | loaded o | resumed o | restartAccepted o | zoneCleared o | qualified o | discharged o | settleExpired o
  | drainForced o | listens o | muted o | coldStarted o | zoneBytesTaken o => exact State.settle_atRest _ o
  | demandSet o | pinTaken o => exact State.judge_atRest _ o _
  | pinChanged pin => cases pin <;> exact h
  | dropoutEnds => exact State.atRest_queueRecord _ h
  | faulted o r k => exact State.faultRail_atRest o r k h
  | drainContinued r c t =>
    rw [State.queueRecord_eq]
    refine State.SameConditions.atRest (s := s) ⟨rfl, rfl, .of_eq rfl rfl, rfl, rfl, fun q => ?_⟩ h
    by_cases hq : q = r <;> simp [Four.get_set, hq]
  | missChecked o k => exact State.missCheck_atRest o k h
  | slotBegins k t =>
    exact State.SameConditions.atRest (s := s)
      ⟨rfl, rfl, .updateUnseen (g := fun p => { p with heard := false }) (fun _ => rfl) rfl rfl, rfl, rfl,
        fun _ => ⟨rfl, rfl, rfl, rfl⟩⟩ h
  | listenCounted o => exact State.countListen_atRest o h
  | frameBuilt img f =>
    exact State.SameConditions.atRest (s := s)
      ⟨rfl, rfl, .updateOwn _ rfl rfl, rfl, rfl, fun _ => ⟨rfl, rfl, rfl, rfl⟩⟩ h
  | timingTaken f t0 => exact State.takeTiming_atRest f t0 h
  | reportTaken o => exact State.judgeAll_atRest _ o

end Sys2Proof.Machine

namespace Sys2Proof.Machine

/-- Settles O54: every event of a step leaves every rail at rest. -/
theorem stepLeavesRailsAtRest : Obligations.StepLeavesRailsAtRest :=
  fun _ _ hs ht => step_keeps (fun _ _ e => e.atRest) ht hs

end Sys2Proof.Machine

/-! Proofs of the invariants: what a rail's entry into a state does, and that all moves of rails, the entry into FAULT
included, are such entries (`State.RailsEnter`). -/

namespace Sys2Proof.Machine
open Sys2Proof

/-! ### The moves of Table 10, one constructor each -/

/-- What rail `r` of configuration `c` does about its conditions: `State.react` by its cases. -/
inductive State.Reaction (s : State) (r : RailIx) (c : RailConfig) : State → Prop
  | opens (hs : (s.rails.get r).state = .off) (hg : s.gateOpen c = true) : Reaction s r c (s.enterWaiting c r)
  | shuts (hs : (s.rails.get r).state = .waiting ∨ (s.rails.get r).state = .settling) (hg : s.gateOpen c = false) :
      Reaction s r c (s.enter r .off)
  | starts (hs : (s.rails.get r).state = .waiting) (hg : s.gateOpen c = true) (hm : s.mayStart c r = true) :
      Reaction s r c (s.enterSettling c r)
  | waits (hs : (s.rails.get r).state = .settling) (hg : s.gateOpen c = true) (ha : s.allGood c r = false) :
      Reaction s r c (s.enter r .waiting)
  | loses (hs : (s.rails.get r).state = .ramping ∨ (s.rails.get r).state = .good ∨ (s.rails.get r).state = .draining)
      (hp : c.policy = .follow) (hu : s.allUp c r = false) : Reaction s r c (s.enterFalling c r .prereqLost)
  | drains (hs : (s.rails.get r).state = .good) (hd : s.demanded c.zone = false) : Reaction s r c (s.enterDraining c r)
  | released (hs : (s.rails.get r).state = .draining) (hh : s.held r = false) : Reaction s r c (s.release c r)
  | returns (hs : (s.rails.get r).state = .draining) (hd : s.demanded c.zone = true) (hz : s.zoneNormal c.zone = true) :
      Reaction s r c (s.enter r .good)

/-- Every move is one of the rows of Table 10. -/
theorem State.react_reaction {s u : State} {o : Occasion} {r : RailIx} (h : s.react o r = some u) :
    ∃ c, s.fittedConfig r = some c ∧ s.Reaction r c u := by
  unfold State.react at h
  split at h
  · cases h
  rename_i c hc
  refine ⟨c, hc, ?_⟩
  have loses (hs : (s.rails.get r).state = .ramping ∨ (s.rails.get r).state = .good ∨
      (s.rails.get r).state = .draining) {w : State} (h : s.followLoss c r = some w) : s.Reaction r c w := by
    unfold State.followLoss at h
    split at h <;> cases h
    rename_i hl
    simp only [Bool.and_eq_true, decide_eq_true_eq, Bool.not_eq_true'] at hl
    exact .loses hs hl.1 hl.2
  split at h
  case h_1 hs =>
    split at h <;> cases h
    rename_i hg
    exact .opens hs hg
  case h_2 hs =>
    split at h
    case isTrue hg =>
      cases h
      exact .shuts (.inl hs) (by simpa using hg)
    case isFalse hg =>
      split at h <;> cases h
      rename_i hm
      exact .starts hs (by simpa using hg) hm
  case h_3 hs =>
    split at h
    case isTrue hg =>
      cases h
      exact .shuts (.inr hs) (by simpa using hg)
    case isFalse hg =>
      split at h <;> cases h
      rename_i ha
      exact .waits hs (by simpa using hg) (by simpa using ha)
  case h_4 hs => exact loses (.inl hs) h
  case h_5 hs =>
    obtain ⟨v, -, hv⟩ := List.exists_of_findSome?_eq_some h
    cases v with
    | prerequisites => exact loses (.inr (.inl hs)) hv
    | holds => cases hv
    | demand =>
      simp only [State.goodReaction] at hv
      split at hv <;> cases hv
      rename_i hd
      exact .drains hs (by simpa using hd)
  case h_6 hs =>
    obtain ⟨v, -, hv⟩ := List.exists_of_findSome?_eq_some h
    cases v with
    | prerequisites => exact loses (.inr (.inr hs)) hv
    | holds =>
      simp only [State.drainingReaction] at hv
      split at hv <;> cases hv
      rename_i hh
      exact .released hs (by simpa using hh)
    | demand =>
      simp only [State.drainingReaction] at hv
      split at hv <;> cases hv
      rename_i hd
      rw [Bool.and_eq_true] at hd
      exact .returns hs hd.1 hd.2
  case h_7 => cases h
  case h_8 => cases h

/-! ### Entering a state -/

/-- `y` is rail record `x` of configuration `c` after it entered its state at instant `now` (R1, R9, R12, R18, R40): the
timer of the state started, every other idle, the conditions as they were. -/
structure Rail.Entered (c : RailConfig) (now : Nat) (x y : Rail) : Prop where
  since : y.since = now
  settle : y.settle = if y.state = .settling then some { start := now, length := c.settleDelay } else none
  ramp : y.ramp = if y.state = .ramping then some { start := now, length := c.rampTimeout } else none
  drain : y.drain = if y.state = .draining ∧ c.drainTimeout ≠ 0 then some { start := now, length := c.drainTimeout }
    else none
  discharge : y.discharge = if y.state = .falling then some { start := now, length := c.dischargeTimeout } else none
  remoteGood : y.remoteGood = x.remoteGood
  remoteUp : y.remoteUp = x.remoteUp
  peerHeld : y.peerHeld = x.peerHeld

/-- Every rail keeps its records or is a fitted rail that has entered a state. Of the rest of the state only the queue,
the alert flags and the zones' conditions and records differ. -/
structure State.RailsEnter (s t : State) : Prop where
  now : t.now = s.now
  startup : t.startup = s.startup
  peers : t.peers = s.peers
  line : t.line = s.line
  receiver : t.receiver = s.receiver
  nextSample : t.monitor.nextSample = s.monitor.nextSample
  transaction : t.port.transaction = s.port.transaction
  portDemand : t.port.portDemand = s.port.portDemand
  ownDemand : t.zones.ownDemand = s.zones.ownDemand
  dem0 : t.zones.dem0 = s.zones.dem0
  dem1 : t.zones.dem1 = s.zones.dem1
  demanded : ∀ z, t.demanded z = s.demanded z
  rails : ∀ q, s.sameRail t q ∨ ∃ c, s.fittedConfig q = some c ∧
    Rail.Entered c s.now (s.rails.get q) (t.rails.get q) ∧
    (t.monitor.rails.get q).outside = 0 ∧ (t.monitor.rails.get q).deglitch = none

namespace State.RailsEnter

theorem refl (s : State) : s.RailsEnter s :=
  ⟨rfl, rfl, rfl, rfl, rfl, rfl, rfl, rfl, rfl, rfl, rfl, fun _ => rfl, fun _ => .inl ⟨rfl, rfl⟩⟩

theorem trans {s t u : State} (h : s.RailsEnter t) (k : t.RailsEnter u) : s.RailsEnter u where
  now := k.now.trans h.now
  startup := k.startup.trans h.startup
  peers := k.peers.trans h.peers
  line := k.line.trans h.line
  receiver := k.receiver.trans h.receiver
  nextSample := k.nextSample.trans h.nextSample
  transaction := k.transaction.trans h.transaction
  portDemand := k.portDemand.trans h.portDemand
  ownDemand := k.ownDemand.trans h.ownDemand
  dem0 := k.dem0.trans h.dem0
  dem1 := k.dem1.trans h.dem1
  demanded z := (k.demanded z).trans (h.demanded z)
  rails q := by
    rcases k.rails q with ⟨hr, hm⟩ | ⟨c, hc, he, h0, hd⟩
    · rcases h.rails q with hs | hs
      · exact .inl (hs.trans ⟨hr, hm⟩)
      · rw [hr, hm]
        exact .inr hs
    · have hc' : s.fittedConfig q = some c := (State.fittedConfig_congr h.startup q).symm.trans hc
      have keeps : (t.rails.get q).remoteGood = (s.rails.get q).remoteGood ∧
          (t.rails.get q).remoteUp = (s.rails.get q).remoteUp ∧
          (t.rails.get q).peerHeld = (s.rails.get q).peerHeld := by
        rcases h.rails q with hs | ⟨d, -, hd, -⟩
        · rw [hs.1]
          exact ⟨rfl, rfl, rfl⟩
        · exact ⟨hd.remoteGood, hd.remoteUp, hd.peerHeld⟩
      rw [h.now] at he
      exact .inr ⟨c, hc', { he with
        remoteGood := he.remoteGood.trans keeps.1
        remoteUp := he.remoteUp.trans keeps.2.1
        peerHeld := he.peerHeld.trans keeps.2.2 }, h0, hd⟩

/-- A rail's conditions are those it had. -/
theorem kept {s t : State} (h : s.RailsEnter t) (r : RailIx) :
    (t.rails.get r).remoteGood = (s.rails.get r).remoteGood ∧
    (t.rails.get r).remoteUp = (s.rails.get r).remoteUp ∧ (t.rails.get r).peerHeld = (s.rails.get r).peerHeld := by
  rcases h.rails r with hs | ⟨_, -, he, -⟩
  · rw [hs.1]
    exact ⟨rfl, rfl, rfl⟩
  · exact ⟨he.remoteGood, he.remoteUp, he.peerHeld⟩

theorem fitted {s t : State} (h : s.RailsEnter t) (r : RailIx) : t.fittedConfig r = s.fittedConfig r :=
  State.fittedConfig_congr h.startup r

/-- One fitted rail enters a state. -/
theorem putRail {s : State} {r : RailIx} {c : RailConfig} {x : Rail} {m : Monitor} (hc : s.fittedConfig r = some c)
    (hx : Rail.Entered c s.now (s.rails.get r) x) (h0 : m.outside = 0) (hd : m.deglitch = none) :
    s.RailsEnter (s.putRail r x m) := by
  refine ⟨rfl, rfl, rfl, rfl, rfl, rfl, rfl, rfl, rfl, rfl, rfl, fun _ => rfl, fun q => ?_⟩
  by_cases e : q = r
  · subst e
    exact .inr ⟨c, hc, by simpa using hx, by simpa using h0, by simpa using hd⟩
  · exact .inl (State.putRail_sameRail s r x m q e)

theorem queueRecord (s : State) (x : TimingRecord) : s.RailsEnter (s.queueRecord x) := by
  rw [State.queueRecord_eq]
  exact ⟨rfl, rfl, rfl, rfl, rfl, rfl, rfl, rfl, rfl, rfl, rfl, fun _ => rfl, fun _ => .inl ⟨rfl, rfl⟩⟩

theorem setFlag (s : State) (f : AlertFlag) : s.RailsEnter (s.setFlag f) :=
  ⟨rfl, rfl, rfl, rfl, rfl, rfl, rfl, rfl, rfl, rfl, rfl, fun _ => rfl, fun _ => .inl ⟨rfl, rfl⟩⟩

theorem setFlagIf (s : State) (b : Bool) (f : AlertFlag) : s.RailsEnter (s.setFlagIf b f) := by
  cases b
  · exact refl s
  · exact setFlag s f

/-- Zones change, their demand kept. -/
theorem setEntries (s : State) (x : Eight Zone) (hx : ∀ z, (x.get z).demanded = s.demanded z) :
    s.RailsEnter { s with zones := { s.zones with entries := x } } :=
  ⟨rfl, rfl, rfl, rfl, rfl, rfl, rfl, rfl, rfl, rfl, rfl, hx, fun _ => .inl ⟨rfl, rfl⟩⟩

/-- A state without a timer is entered. -/
theorem enter {s : State} {r : RailIx} {c : RailConfig} (hc : s.fittedConfig r = some c) {st : RailState}
    (h₁ : st ≠ .settling) (h₂ : st ≠ .ramping) (h₃ : st ≠ .draining) (h₄ : st ≠ .falling) :
    s.RailsEnter (s.enter r st) := by
  rw [State.enter_eq]
  exact putRail hc ⟨rfl, by simp [Rail.entered, h₁], by simp [Rail.entered, h₂], by simp [Rail.entered, h₃],
    by simp [Rail.entered, h₄], rfl, rfl, rfl⟩ rfl rfl

theorem enterFalling {s : State} {r : RailIx} {c : RailConfig} (hc : s.fittedConfig r = some c) (k : FallCause) :
    s.RailsEnter (s.enterFalling c r k) := by
  rw [State.enterFalling_eq]
  exact putRail hc ⟨rfl, rfl, rfl, rfl, rfl, rfl, rfl, rfl⟩ rfl rfl

theorem enterRamping {s : State} {r : RailIx} {c : RailConfig} (hc : s.fittedConfig r = some c) :
    s.RailsEnter (s.enterRamping c r) := by
  rw [State.enterRamping_eq]
  exact putRail hc ⟨rfl, rfl, rfl, rfl, rfl, rfl, rfl, rfl⟩ rfl rfl

theorem enterSettling {s : State} {r : RailIx} {c : RailConfig} (hc : s.fittedConfig r = some c) :
    s.RailsEnter (s.enterSettling c r) := by
  rw [State.enterSettling_eq]
  split
  · exact putRail hc ⟨rfl, rfl, rfl, rfl, rfl, rfl, rfl, rfl⟩ rfl rfl
  · exact putRail hc ⟨rfl, rfl, rfl, rfl, rfl, rfl, rfl, rfl⟩ rfl rfl

theorem enterWaiting {s : State} {r : RailIx} {c : RailConfig} (hc : s.fittedConfig r = some c) :
    s.RailsEnter (s.enterWaiting c r) := by
  rw [State.enterWaiting_eq]
  split
  · exact enterSettling hc
  · exact enter hc (by simp) (by simp) (by simp) (by simp)

theorem release {s : State} {r : RailIx} {c : RailConfig} (hc : s.fittedConfig r = some c) :
    s.RailsEnter (s.release c r) :=
  (queueRecord s _).trans
    (enterFalling ((State.fittedConfig_congr (s.queueRecord_startup _) r).trans hc) .demand)

theorem enterDraining {s : State} {r : RailIx} {c : RailConfig} (hc : s.fittedConfig r = some c) :
    s.RailsEnter (s.enterDraining c r) := by
  have hd : s.RailsEnter (s.draining c r) :=
    putRail hc ⟨rfl, rfl, rfl, by simp [Rail.entered], rfl, rfl, rfl, rfl⟩ rfl rfl
  rw [State.enterDraining_eq]
  split
  · exact hd
  · exact hd.trans (release ((hd.fitted r).trans hc))

/-! ### Moves and settling -/

/-- Every move of Table 10 is an entry of its rail into a state. -/
theorem react {s u : State} {o : Occasion} {r : RailIx} (h : s.react o r = some u) : s.RailsEnter u := by
  obtain ⟨c, hc, h⟩ := State.react_reaction h
  cases h with
  | opens => exact enterWaiting hc
  | starts => exact enterSettling hc
  | loses => exact enterFalling hc _
  | drains => exact enterDraining hc
  | released => exact release hc
  | shuts | waits | returns => exact enter hc (by simp) (by simp) (by simp) (by simp)

theorem ofMoves {o : Occasion} {s t : State} (h : Relation.ReflTransGen (State.MovesOnce o) s t) : s.RailsEnter t := by
  induction h with
  | refl => exact refl s
  | tail _ h ih =>
    obtain ⟨r, hr⟩ := h
    exact ih.trans (react hr)

theorem settle (s : State) (o : Occasion) : s.RailsEnter (s.settle o) := ofMoves (s.settle_reaches o)

/-! ### Trips, releases from FAULT and faults -/

/-- A rail taken down keeps its records or enters OFF or FALLING. -/
theorem takenDown (c : RailConfig) (k : FallCause) (now : Nat) (x : Rail) (m : Monitor) :
    (x.takenDown c k now = x ∧ m.takenDown x = m) ∨
    (Rail.Entered c now x (x.takenDown c k now) ∧ (m.takenDown x).outside = 0 ∧ (m.takenDown x).deglitch = none) := by
  unfold Rail.takenDown Monitor.takenDown
  cases x.state
  case off | falling | fault => exact .inl ⟨rfl, rfl⟩
  all_goals exact .inr ⟨⟨rfl, rfl, rfl, rfl, rfl, rfl, rfl, rfl⟩, rfl, rfl⟩

theorem takeDownAll (s : State) (k : FallCause) (which : RailConfig → Bool) :
    s.RailsEnter (s.takeDownAll k which) := by
  rw [State.takeDownAll_eq]
  refine ⟨rfl, rfl, rfl, rfl, rfl, rfl, rfl, rfl, rfl, rfl, rfl, fun _ => rfl, fun q => ?_⟩
  simp only [State.sameRail, Four.get_of, State.downRail, State.downMonitor]
  split
  · rename_i c hc
    split
    · rcases takenDown c k s.now (s.rails.get q) (s.monitor.rails.get q) with h | h
      · exact .inl h
      · exact .inr ⟨c, hc, h⟩
    · exact .inl ⟨rfl, rfl⟩
  · exact .inl ⟨rfl, rfl⟩

theorem releaseFaults (s : State) (which : ZoneIx → Bool) : s.RailsEnter (s.releaseFaults which) := by
  rw [State.releaseFaults_eq]
  refine ⟨rfl, rfl, rfl, rfl, rfl, rfl, rfl, rfl, rfl, rfl, rfl, fun _ => rfl, fun q => ?_⟩
  by_cases hr : s.releasedRail which q = true
  · obtain ⟨c, hc⟩ : ∃ c, s.fittedConfig q = some c := by
      unfold State.releasedRail at hr
      split at hr
      · exact ⟨_, ‹_›⟩
      · cases hr
    refine .inr ⟨c, hc, ?_, ?_, ?_⟩ <;> simp only [Four.get_of, hr, if_true]
    · exact ⟨rfl, rfl, rfl, rfl, rfl, rfl, rfl, rfl⟩
    · rfl
    · rfl
  · exact .inl (by simp [State.sameRail, hr])

theorem localTrip (s : State) (z : ZoneIx) (t : TripRecord) : s.RailsEnter (s.localTrip z t) := by
  have hz (e : Zone) (he : e.demanded = (s.zones.entries.get z).demanded) : s.RailsEnter (s.setZone z e) :=
    setEntries s _ fun y => by
      by_cases h : y = z
      · subst h
        simpa [State.demanded] using he
      · simp [Eight.get_set_other _ _ h, State.demanded]
  unfold State.localTrip
  dsimp only
  refine RailsEnter.trans ?_ (takeDownAll _ _ _)
  split
  · refine RailsEnter.trans ?_ (setFlag _ _)
    exact hz _ rfl
  · exact hz _ rfl

theorem enterFault {s : State} {r : RailIx} {c : RailConfig} (hc : s.fittedConfig r = some c) (k : FaultKind) :
    s.RailsEnter (s.enterFault c r k) := by
  have hf : s.RailsEnter (s.faulted r k) := by
    unfold State.faulted
    refine RailsEnter.trans (RailsEnter.trans ?_ (queueRecord _ _)) (setFlag _ _)
    exact putRail hc ⟨rfl, rfl, rfl, rfl, rfl, rfl, rfl, rfl⟩ rfl rfl
  rw [State.enterFault_eq]
  split
  · exact hf.trans (localTrip _ _ _)
  · exact hf

theorem faultRail (s : State) (o : Occasion) (r : RailIx) (k : FaultKind) : s.RailsEnter (s.faultRail o r k) := by
  unfold State.faultRail
  split
  · exact refl s
  · rename_i c hc
    split
    · exact (enterFault hc k).trans (settle _ o)
    · exact refl s

/-! ### The end of a ramp, of a fall and of a drain -/

theorem qualify {s : State} {r : RailIx} {c : RailConfig} (hc : s.fittedConfig r = some c) (o : Occasion) :
    s.RailsEnter (s.qualify o c r) := by
  unfold State.qualify
  dsimp only
  have hq := queueRecord s (s.makeRecord r .ramp .none (s.widthSince (s.rails.get r).since) false)
  refine (hq.trans ?_).trans (settle _ o)
  split
  · exact enter ((hq.fitted r).trans hc) (by simp) (by simp) (by simp) (by simp)
  · exact enterDraining ((hq.fitted r).trans hc)

theorem discharged {s : State} {r : RailIx} {c : RailConfig} (hc : s.fittedConfig r = some c) (o : Occasion) :
    s.RailsEnter (s.discharged o r) := by
  unfold State.discharged
  dsimp only
  have hq := queueRecord s
    (s.makeRecord r .discharge (.cause (s.rails.get r).fallCause) (s.widthSince (s.rails.get r).since) false)
  exact (hq.trans (enter ((hq.fitted r).trans hc) (by simp) (by simp) (by simp) (by simp))).trans (settle _ o)

theorem drainForced {s : State} {r : RailIx} {c : RailConfig} (hc : s.fittedConfig r = some c) (x : TimingRecord)
    (o : Occasion) : s.RailsEnter (((s.queueRecord x).enterFalling c r .demand).settle o) :=
  ((queueRecord s x).trans (enterFalling (((queueRecord s x).fitted r).trans hc) _)).trans (settle _ o)

/-! ### Zones -/

theorem clear (s : State) (o : Occasion) (z : ZoneIx) : s.RailsEnter (s.clear o z) := by
  unfold State.clear
  dsimp only
  refine (((setEntries s _ fun y => ?_).trans (releaseFaults _ _)).trans (setFlag _ _)).trans (settle _ o)
  by_cases h : y = z
  · subst h
    simp [State.demanded]
  · simp [Eight.get_set_other _ _ h, State.demanded]

end State.RailsEnter

/-- A frame's zone bytes leave a zone's demand as it is (R89). -/
theorem compareZone_demanded (e : Zone) (g : Byte) (tripped : Bool) (part : Option TripRecord) :
    (compareZone e g tripped part).entry.demanded = e.demanded := by
  unfold compareZone
  split
  · split <;> rfl
  · split
    · split
      · rfl
      · split <;> rfl
    · rfl

theorem adoptZone_demanded (e : Zone) (g : Byte) (tripped : Bool) (part : Option TripRecord) :
    (adoptZone e g tripped part).entry.demanded = e.demanded := by
  unfold adoptZone
  split <;> rfl

theorem State.zoneOutcome_demanded (s : State) (f : Frame) (z : ZoneIx) :
    (s.zoneOutcome f z).entry.demanded = s.demanded z := by
  unfold State.zoneOutcome
  dsimp only
  split
  · exact adoptZone_demanded _ _ _ _
  · exact compareZone_demanded _ _ _ _

theorem State.RailsEnter.takeZoneBytes (s : State) (o : Occasion) (f : Frame) : s.RailsEnter (s.takeZoneBytes o f) := by
  unfold State.takeZoneBytes
  dsimp only
  refine RailsEnter.trans ?_ (settle _ o)
  refine RailsEnter.trans ?_ (takeDownAll _ _ _)
  refine RailsEnter.trans ?_ (releaseFaults _ _)
  refine RailsEnter.trans ?_ (setFlagIf _ _ _)
  refine RailsEnter.trans ?_ (setFlagIf _ _ _)
  exact setEntries s _ fun z => by simp [State.zoneOutcome_demanded]

end Sys2Proof.Machine

/-! Proofs of the invariants: what taking the view again leaves alone, and the rail timers (`State.timersFit`,
`State.timersAgree`). -/

namespace Sys2Proof.Machine
open Sys2Proof

/-! ### Taking the view -/

/-- Taking the view again changes a rail's conditions alone. -/
theorem State.takeView_rail (s : State) (v : View) (r : RailIx) : ∃ good up held, (s.takeView v).rails.get r =
    { s.rails.get r with remoteGood := good, remoteUp := up, peerHeld := held } := by
  cases v with
  | prerequisites =>
    simp only [State.takeView, Four.get_of]
    split <;> exact ⟨_, _, _, rfl⟩
  | holds =>
    simp only [State.takeView, Four.get_of]
    exact ⟨_, _, _, rfl⟩
  | demand => exact ⟨_, _, _, rfl⟩

/-- What taking the view again leaves as it is. -/
structure State.SameButView (s t : State) : Prop where
  now : t.now = s.now
  startup : t.startup = s.startup
  peers : t.peers = s.peers
  line : t.line = s.line
  receiver : t.receiver = s.receiver
  monitor : t.monitor = s.monitor
  port : t.port = s.port
  ownDemand : t.zones.ownDemand = s.zones.ownDemand
  dem0 : t.zones.dem0 = s.zones.dem0
  dem1 : t.zones.dem1 = s.zones.dem1
  condition : ∀ z, t.zoneNormal z = s.zoneNormal z

theorem State.takeView_sameButView (s : State) (v : View) : s.SameButView (s.takeView v) := by
  cases v with
  | prerequisites | holds => exact ⟨rfl, rfl, rfl, rfl, rfl, rfl, rfl, rfl, rfl, rfl, fun _ => rfl⟩
  | demand =>
    refine ⟨rfl, rfl, rfl, rfl, rfl, rfl, rfl, rfl, rfl, rfl, fun z => ?_⟩
    simp [State.takeView, State.zoneNormal]

/-! ### The timers of one rail -/

/-- `State.timersFit` for one rail's records. -/
def Rail.timersFit (x : Rail) (m : Monitor) : Prop :=
  (x.settle.isSome = true ↔ x.state = .settling) ∧ (x.ramp.isSome = true ↔ x.state = .ramping) ∧
  (x.drain.isSome = true → x.state = .draining) ∧ (x.discharge.isSome = true ↔ x.state = .falling) ∧
  (m.deglitch.isSome = true → x.state = .good ∨ x.state = .draining) ∧
  (x.state = .ramping ∨ x.state = .falling ∨ x.state = .fault → m.outside = 0)

theorem State.timersFit_iff (s : State) :
    s.timersFit ↔ ∀ r, Rail.timersFit (s.rails.get r) (s.monitor.rails.get r) := Iff.rfl

/-- `State.timersAgree` for one rail's records, `next` the next sample instant. -/
def Rail.timersAgree (c : RailConfig) (next : Nat) (x : Rail) (m : Monitor) : Prop :=
  (∀ t, x.settle = some t → t = { start := x.since, length := c.settleDelay }) ∧
  (∀ t, x.ramp = some t → t = { start := x.since, length := c.rampTimeout }) ∧
  (∀ t, x.drain = some t → t = { start := x.since, length := c.drainTimeout }) ∧
  (∀ t, x.discharge = some t → t = { start := x.since, length := c.dischargeTimeout }) ∧
  (∀ t, m.deglitch = some t → t.length = c.pgDeglitch ∧ t.start < next ∧ (next - t.start) % 3200 = 0)

theorem State.timersAgree_iff (s : State) :
    s.timersAgree ↔ ∀ r c, s.fittedConfig r = some c →
      Rail.timersAgree c s.monitor.nextSample (s.rails.get r) (s.monitor.rails.get r) := Iff.rfl

/-- A rail that has entered a state runs the timer of that state alone. -/
theorem Rail.Entered.timersFit {c : RailConfig} {now : Nat} {x y : Rail} {m : Monitor} (h : Rail.Entered c now x y)
    (h0 : m.outside = 0) (hd : m.deglitch = none) : Rail.timersFit y m := by
  refine ⟨?_, ?_, ?_, ?_, by simp [hd], fun _ => h0⟩
  · rw [h.settle]
    split <;> simp [*]
  · rw [h.ramp]
    split <;> simp [*]
  · rw [h.drain]
    split <;> simp_all
  · rw [h.discharge]
    split <;> simp [*]

/-- That timer started at the entry with the length of the configuration. -/
theorem Rail.Entered.timersAgree {c : RailConfig} {now next : Nat} {x y : Rail} {m : Monitor}
    (h : Rail.Entered c now x y) (hd : m.deglitch = none) : Rail.timersAgree c next y m := by
  have started {p : Prop} [Decidable p] {n : Nat} {t : Timer}
      (e : (if p then some { start := now, length := n } else none) = some t) :
      t = { start := y.since, length := n } := by
    split at e
    · cases e
      rw [h.since]
    · cases e
  refine ⟨fun t e => ?_, fun t e => ?_, fun t e => ?_, fun t e => ?_, fun t e => by simp [hd] at e⟩
  · exact started (h.settle ▸ e)
  · exact started (h.ramp ▸ e)
  · exact started (h.drain ▸ e)
  · exact started (h.discharge ▸ e)

/-- A rail in OFF with no timer running. -/
def Rail.idle (x : Rail) (m : Monitor) : Prop :=
  x.state = .off ∧ x.settle = none ∧ x.ramp = none ∧ x.drain = none ∧ x.discharge = none ∧ m.deglitch = none

theorem Rail.idle.timersFit {x : Rail} {m : Monitor} (h : x.idle m) : Rail.timersFit x m := by
  obtain ⟨hs, h₁, h₂, h₃, h₄, h₅⟩ := h
  simp [Rail.timersFit, hs, h₁, h₂, h₃, h₄, h₅]

theorem Rail.idle.timersAgree {x : Rail} {m : Monitor} (h : x.idle m) (c : RailConfig) (next : Nat) :
    Rail.timersAgree c next x m := by
  obtain ⟨hs, h₁, h₂, h₃, h₄, h₅⟩ := h
  simp [Rail.timersAgree, h₁, h₂, h₃, h₄, h₅]

/-- A rail in OFF whose timers fit is idle once its deglitch timer is. -/
theorem Rail.timersFit.idle {x : Rail} {m : Monitor} (h : Rail.timersFit x m) (hs : x.state = .off) : x.idle m := by
  obtain ⟨h₁, h₂, h₃, h₄, h₅, -⟩ := h
  simp only [hs, reduceCtorEq, iff_false, imp_false, or_self, Bool.not_eq_true, Option.isSome_eq_false_iff,
    Option.isNone_iff_eq_none] at h₁ h₂ h₃ h₄ h₅
  exact ⟨hs, h₁, h₂, h₃, h₄, h₅⟩

/-! ### The timers of every rail -/

/-- A rail's state and timers and its monitor's counts are the same in both states. -/
structure State.SameTimers (s t : State) : Prop where
  rails : ∀ r, ∃ good up held drainFrom, t.rails.get r =
    { s.rails.get r with remoteGood := good, remoteUp := up, peerHeld := held, drainFrom := drainFrom }
  monitor : ∀ r, (t.monitor.rails.get r).outside = (s.monitor.rails.get r).outside ∧
    (t.monitor.rails.get r).deglitch = (s.monitor.rails.get r).deglitch

theorem State.SameTimers.trans {s t u : State} (h : s.SameTimers t) (k : t.SameTimers u) : s.SameTimers u where
  rails r := by
    obtain ⟨a, b, c, d, e⟩ := h.rails r
    obtain ⟨a', b', c', d', e'⟩ := k.rails r
    exact ⟨a', b', c', d', by rw [e', e]⟩
  monitor r := ⟨(k.monitor r).1.trans (h.monitor r).1, (k.monitor r).2.trans (h.monitor r).2⟩

theorem State.SameTimers.of_eq {s t : State} (hr : t.rails = s.rails) (hm : t.monitor.rails = s.monitor.rails) :
    s.SameTimers t := by
  refine ⟨fun r => ⟨_, _, _, _, by rw [hr]⟩, fun r => ?_⟩
  rw [hm]
  exact ⟨rfl, rfl⟩

theorem State.takeView_sameTimers (s : State) (v : View) : s.SameTimers (s.takeView v) := by
  refine ⟨fun r => ?_, fun r => ?_⟩
  · obtain ⟨a, b, c, e⟩ := s.takeView_rail v r
    exact ⟨a, b, c, _, e⟩
  · rw [(s.takeView_sameButView v).monitor]
    exact ⟨rfl, rfl⟩

theorem State.rejudge_sameTimers (s : State) : s.SameTimers s.rejudge :=
  ((s.takeView_sameTimers _).trans (State.takeView_sameTimers _ _)).trans (State.takeView_sameTimers _ _)

theorem State.SameTimers.timersFit {s t : State} (h : s.SameTimers t) (hs : s.timersFit) : t.timersFit := by
  intro r
  obtain ⟨a, b, c, d, e⟩ := h.rails r
  rw [e, (h.monitor r).1, (h.monitor r).2]
  exact hs r

theorem State.SameTimers.timersAgree {s t : State} (h : s.SameTimers t) (hc : t.startup = s.startup)
    (hn : t.monitor.nextSample = s.monitor.nextSample) (hs : s.timersAgree) : t.timersAgree := by
  intro r c hf
  rw [State.fittedConfig_congr hc] at hf
  obtain ⟨a, b, d, f, e⟩ := h.rails r
  rw [e, (h.monitor r).2, hn]
  exact hs r c hf

theorem State.RailsEnter.timersFit {s t : State} (h : s.RailsEnter t) (hs : s.timersFit) : t.timersFit := by
  intro r
  rcases h.rails r with ⟨hr, hm⟩ | ⟨c, -, he, h0, hd⟩
  · rw [hr, hm]
    exact hs r
  · exact he.timersFit h0 hd

theorem State.RailsEnter.timersAgree {s t : State} (h : s.RailsEnter t) (hs : s.timersAgree) : t.timersAgree := by
  intro r c hf
  rw [h.fitted] at hf
  rcases h.rails r with ⟨hr, hm⟩ | ⟨d, hd, he, -, hg⟩
  · rw [hr, hm, h.nextSample]
    exact hs r c hf
  · rw [hf] at hd
    cases hd
    exact he.timersAgree hg

/-- A judgement and its consequences keep the rail timers. -/
theorem State.judge_timersFit {s : State} (o : Occasion) (v : View) (h : s.timersFit) : (s.judge o v).timersFit :=
  (State.RailsEnter.settle _ o).timersFit ((s.takeView_sameTimers v).timersFit h)

theorem State.judge_timersAgree {s : State} (o : Occasion) (v : View) (h : s.timersAgree) :
    (s.judge o v).timersAgree := by
  have hv := s.takeView_sameButView v
  exact (State.RailsEnter.settle _ o).timersAgree
    ((s.takeView_sameTimers v).timersAgree hv.startup (by rw [hv.monitor]) h)

/-- What every judgement keeps, all judgements of a change keep. -/
theorem State.judgeAll_keeps_of {P : State → Prop} {o : Occasion} (hP : ∀ (t : State) (v : View), P t → P (t.judge o v))
    {s : State} (h : P s) : P (s.judgeAll o) := by
  unfold State.judgeAll
  generalize viewOrder o = l
  induction l generalizing s with
  | nil => exact h
  | cons v l ih => exact ih (hP s v h)

theorem State.judgeAll_timersFit {s : State} (o : Occasion) (h : s.timersFit) : (s.judgeAll o).timersFit :=
  State.judgeAll_keeps_of (P := State.timersFit) (fun _ v => State.judge_timersFit o v) h

theorem State.judgeAll_timersAgree {s : State} (o : Occasion) (h : s.timersAgree) : (s.judgeAll o).timersAgree :=
  State.judgeAll_keeps_of (P := State.timersAgree) (fun _ v => State.judge_timersAgree o v) h

/-! ### Blocks that touch no rail timer, and those of start-up -/

/-- Setting a flag conditionally is no concern of a property that a change of the flags keeps. -/
theorem State.setFlagIf_keeps {P : State → Prop} {s : State} (f : AlertFlag) (b : Bool) (h : P s)
    (hf : P (s.setFlag f)) : P (s.setFlagIf b f) := by
  cases b
  · exact h
  · exact hf

theorem State.missCheck_keeps_of {P : State → Prop} {s : State} {o : Occasion} (k : Nat) (h : P s)
    (hj : ∀ w : BitVec 9, P ({ s.updatePeer k Peer.missed with
      port := { s.port with flags := w } }.judgeAll o)) : P (s.missCheck o k) := by
  unfold State.missCheck
  split
  · split
    · rw [State.setFlagIf_eq]
      exact hj _
    · exact h
  · exact h

theorem State.takeReport_keeps_of {P : State → Prop} {s : State} {o : Occasion} (f : Frame)
    (hj : ∀ w : BitVec 9, P ({ s.updatePeer f.station.toNat (Peer.taking f) with
      port := { s.port with flags := w } }.judgeAll o)) : P (s.takeReport o f) := by
  unfold State.takeReport
  dsimp only
  rw [State.setFlagIf_eq, State.setFlagIf_eq]
  exact hj _

theorem State.countListen_keeps_of {P : State → Prop} {s : State} {o : Occasion} (h : P s)
    (hn : ∀ n : Nat, P { s with line := { s.line with listenCount := n } })
    (ha : s.line.phase = .listen → s.startup.restartPending = false →
      ∀ n : Nat, P ({ s with line := { s.line with listenCount := n, phase := .active } }.settle o)) :
    P (s.countListen o) := by
  unfold State.countListen
  dsimp only
  split
  · rename_i hl
    split
    · rename_i hr
      exact ha hl.1 hr.2 _
    · exact hn _
  · exact h

theorem State.takeTiming_keeps_of {P : State → Prop} {s : State} (f : Frame) (t0 : Nat) (h : P s)
    (ht : s.line.slotTimer ≠ none → P (s.setTiming f.station.toNat t0 f.cycle))
    (hr : ∀ n : Nat, P { s with receiver := { s.receiver with outOfSlot := n } }) : P (s.takeTiming f t0) := by
  unfold State.takeTiming
  dsimp only
  split
  · rename_i x hx
    split
    · exact ht (by simp [hx])
    · exact hr _
  · exact h

/-- Where no configuration is loaded no rail is fitted and nothing is to be agreed with. -/
theorem State.timersAgree_of_unconfigured {s : State} (h : s.startup.config = none) : s.timersAgree := by
  intro r c hc
  rw [State.fittedConfig_none h] at hc
  cases hc

/-- A load begins with the timers as they are. -/
theorem State.beginLoad_timersFit {s : State} (straps : BitVec 5) (h : s.timersFit) : (s.beginLoad straps).timersFit :=
  (State.rejudge_sameTimers _).timersFit h

/-- The timers of rails and monitors as a reset leaves them. -/
theorem timersFit_of_idle {s : State} (h : ∀ r, (s.rails.get r).idle (s.monitor.rails.get r)) : s.timersFit :=
  fun r => (h r).timersFit

/-- Losing the own entry changes the peer table alone (R113). -/
theorem State.ownEntryLost_eq (s : State) : s.ownEntryLost = { s with peers := s.ownEntryLost.peers } := by
  unfold State.ownEntryLost
  split <;> rfl

theorem State.enterListen_eq (s : State) :
    s.enterListen = { s with
      peers := s.ownEntryLost.peers
      line := { s.line with
        phase := .listen, timingHeld := false, listenCount := 0, silence := some s.now, coldMark := false
        leaving := s.line.leaving.dropped } } := by
  unfold State.enterListen
  rw [State.ownEntryLost_eq]

theorem State.enterMuted_eq (s : State) (k : MuteCause) :
    s.enterMuted k = { s with
      peers := s.ownEntryLost.peers
      line := { s.line with
        phase := .muted, listenCount := 0, silence := none, coldMark := false, leaving := s.line.leaving.dropped }
      receiver := { s.receiver with muteCause := k }
      port := { s.port with flags := s.port.flags ||| AlertFlag.bit .lineMuted } } := by
  unfold State.enterMuted
  rw [State.ownEntryLost_eq]
  rfl

theorem State.workOutDemand_sameTimers (s : State) : s.SameTimers s.workOutDemand := .of_eq rfl rfl

theorem State.enterListen_sameTimers (s : State) : s.SameTimers s.enterListen := by
  rw [State.enterListen_eq]
  exact .of_eq rfl rfl

theorem State.enterMuted_sameTimers (s : State) (k : MuteCause) : s.SameTimers (s.enterMuted k) := by
  rw [State.enterMuted_eq]
  exact .of_eq rfl rfl

/-- The blocks as a load that succeeds puts them, before the station enters LISTEN (R171). -/
def State.withImage (s : State) (img : Image) : State :=
  { s with
    startup := { s.startup with
      config := some img, error := .none, errorRail := .r0, load := .idle, restartPending := false }
    rails := Four.of (fun r => { s.rails.get r with since := s.now })
    monitor := { s.monitor with
      rails := Four.of (fun r => { s.monitor.rails.get r with outside := 0, deglitch := none }) }
    peers := List.replicate img.shelfSize Peer.cleared
    line := { s.line with slotTimer := some { slot := 0, start := s.now }, syncSinceLoad := false }
    receiver := { s.receiver with reception := .waiting none } }

theorem State.loadSucceeds_eq (s : State) (o : Occasion) (img : Image) :
    s.loadSucceeds o img = (s.withImage img).enterListen.workOutDemand.rejudge.settle o := rfl

/-- A load that succeeds leaves the rail timers, but for the deglitch timer and the instant of entry. -/
theorem State.withImage_sameTimers (s : State) (img : Image) :
    (s.withImage img).SameTimers (s.withImage img).enterListen.workOutDemand.rejudge :=
  ((State.enterListen_sameTimers _).trans (State.workOutDemand_sameTimers _)).trans (State.rejudge_sameTimers _)

theorem State.setMonitor_timersFit {s : State} {r : RailIx} {m : Monitor} (hm : Rail.timersFit (s.rails.get r) m)
    (h : s.timersFit) : (s.setMonitor r m).timersFit := by
  intro q
  show Rail.timersFit ((s.setMonitor r m).rails.get q) ((s.setMonitor r m).monitor.rails.get q)
  by_cases e : q = r
  · subst e
    simpa using hm
  · simpa [Four.get_set_other _ _ e] using s.timersFit_iff.1 h q

theorem State.setMonitor_timersAgree {s : State} {r : RailIx} {m : Monitor}
    (hm : ∀ c, s.fittedConfig r = some c →
      Rail.timersAgree c s.monitor.nextSample (s.rails.get r) (s.monitor.rails.get r) →
      Rail.timersAgree c s.monitor.nextSample (s.rails.get r) m)
    (h : s.timersAgree) : (s.setMonitor r m).timersAgree := by
  intro q c hc
  show Rail.timersAgree c s.monitor.nextSample ((s.setMonitor r m).rails.get q) ((s.setMonitor r m).monitor.rails.get q)
  by_cases e : q = r
  · subst e
    simpa using hm c hc (h q c hc)
  · simpa [Four.get_set_other _ _ e] using s.timersAgree_iff.1 h q c hc

theorem State.queueRecord_sameTimers (s : State) (x : TimingRecord) : s.SameTimers (s.queueRecord x) :=
  .of_eq (by simp) (by simp)

/-- A sample instant stores the samples and leaves timers and counts (R52). -/
theorem State.storeSamples_sameTimers (s : State) (counts : Four (BitVec 12)) (pg : Four Bool) :
    s.SameTimers (s.storeSamples counts pg) :=
  ⟨fun _ => ⟨_, _, _, _, rfl⟩, fun r => by simp [State.storeSamples]⟩

/-- A continued drain counts its width again and leaves timers and counts (R44). -/
theorem State.setDrainFrom_sameTimers (s : State) (r : RailIx) (x : TimingRecord) (t : Nat) :
    s.SameTimers ((s.queueRecord x).setRail r { s.rails.get r with drainFrom := t }) := by
  refine ⟨fun q => ?_, fun q => by simp⟩
  by_cases e : q = r
  · subst e
    exact ⟨(s.rails.get q).remoteGood, (s.rails.get q).remoteUp, (s.rails.get q).peerHeld, t, by simp⟩
  · refine ⟨(s.rails.get q).remoteGood, (s.rails.get q).remoteUp, (s.rails.get q).peerHeld,
      (s.rails.get q).drainFrom, ?_⟩
    simp [Four.get_set_other _ _ e]

/-! ### Every event -/

/-- Every event keeps each timer in its own rail state. -/
theorem State.Event.timersFit {s t : State} (e : s.Event t) (h : s.timersFit) : t.timersFit := by
  have settled {u : State} (o : Occasion) (hu : s.SameTimers u) : (u.settle o).timersFit :=
    (State.RailsEnter.settle u o).timersFit (hu.timersFit h)
  cases e with
  | dequeued | clock | port | recordTaken | pinChanged | loadFailed | ownSlotEnds | slotBegins | frameBuilt | cutOff
  | collisionCounted | ownFrameEnds | silenceSet | reception | errorCounted | duplicateInMuted => exact h
  | resetEnds cause straps =>
    exact State.beginLoad_timersFit straps
      (timersFit_of_idle fun r => by cases r <;> exact ⟨rfl, rfl, rfl, rfl, rfl, rfl⟩)
  | resetBegins cause level =>
    show (s.enterReset cause).timersFit
    refine (State.rejudge_sameTimers _).timersFit (timersFit_of_idle fun r => ?_)
    cases r <;> exact ⟨rfl, rfl, rfl, rfl, rfl, rfl⟩
  | loaded o image img =>
    rw [State.loadSucceeds_eq]
    refine (State.RailsEnter.settle _ o).timersFit ((s.withImage_sameTimers img).timersFit fun r => ?_)
    obtain ⟨h₁, h₂, h₃, h₄, -, -⟩ := h r
    simp only [State.withImage, Four.get_of]
    exact ⟨h₁, h₂, h₃, h₄, by simp, by simp⟩
  | demandSet o | pinTaken o => exact State.judge_timersFit o _ h
  | zoneCleared o z => exact (State.RailsEnter.clear s o z).timersFit h
  | resumed o => exact settled o (s.enterListen_sameTimers.trans (.of_eq rfl rfl))
  | restartAccepted o =>
    exact (State.RailsEnter.settle _ o).timersFit ((State.RailsEnter.takeDownAll _ _ _).timersFit h)
  | reloaded straps => exact State.beginLoad_timersFit straps h
  | reinitialised straps =>
    refine State.beginLoad_timersFit straps (State.setFlagIf_keeps _ _ ?_ ?_) <;>
      exact timersFit_of_idle fun r => by cases r <;> exact ⟨rfl, rfl, rfl, rfl, rfl, rfl⟩
  | sampled counts pg => exact (State.storeSamples_sameTimers _ counts pg).timersFit h
  | counted r n h₁ h₂ h₃ =>
    obtain ⟨k₁, k₂, k₃, k₄, k₅, -⟩ := h r
    exact State.setMonitor_timersFit ⟨k₁, k₂, k₃, k₄, k₅, by simp [h₁, h₂, h₃]⟩ h
  | deglitchStarts r c hc hs =>
    obtain ⟨k₁, k₂, k₃, k₄, -, k₆⟩ := h r
    exact State.setMonitor_timersFit ⟨k₁, k₂, k₃, k₄, fun _ => hs, k₆⟩ h
  | dropoutEnds r c t =>
    obtain ⟨k₁, k₂, k₃, k₄, -, k₆⟩ := h r
    exact (State.queueRecord_sameTimers _ _).timersFit
      (State.setMonitor_timersFit ⟨k₁, k₂, k₃, k₄, by simp, k₆⟩ h)
  | faulted o r k => exact (State.RailsEnter.faultRail s o r k).timersFit h
  | qualified o r c hc => exact (State.RailsEnter.qualify hc o).timersFit h
  | discharged o r c hc => exact (State.RailsEnter.discharged hc o).timersFit h
  | settleExpired o r c hc =>
    exact (State.RailsEnter.settle _ o).timersFit ((State.RailsEnter.enterRamping hc).timersFit h)
  | drainForced o r c t hc => exact (State.RailsEnter.drainForced hc _ o).timersFit h
  | drainContinued r c t => exact (s.setDrainFrom_sameTimers r _ t).timersFit h
  | missChecked o k => exact State.missCheck_keeps_of k h fun _ => State.judgeAll_timersFit o h
  | listenCounted o =>
    exact State.countListen_keeps_of h (fun _ => h) fun _ _ _ => settled o (.of_eq rfl rfl)
  | listens o => exact settled o s.enterListen_sameTimers
  | muted o k => exact settled o (s.enterMuted_sameTimers k)
  | coldStarted o => exact settled o (.of_eq rfl rfl)
  | timingTaken f t0 => exact State.takeTiming_keeps_of f t0 h (fun _ => h) fun _ => h
  | reportTaken o f => exact State.takeReport_keeps_of f fun _ => State.judgeAll_timersFit o h
  | zoneBytesTaken o f => exact (State.RailsEnter.takeZoneBytes s o f).timersFit h

end Sys2Proof.Machine

/-! Proofs of the invariants: what is kept of the shelf view is what the pins, the port and the peer table give
(`State.viewFresh`). -/

namespace Sys2Proof.Machine
open Sys2Proof

/-! ### The three judgements, each with what it keeps -/

/-- What one judgement has to be of the peer table and own demand as they stand (R5, R37, R76). -/
def State.freshView (s : State) : View → Prop
  | .prerequisites => ∀ (r : RailIx) (c : RailConfig), s.fittedConfig r = some c →
      (s.rails.get r).remoteGood = s.remoteAll c (fun st => decide (st = .good)) ∧
      (s.rails.get r).remoteUp = s.remoteAll c RailState.up
  | .holds => ∀ r : RailIx, (s.rails.get r).peerHeld = s.peersHold r
  | .demand => ∀ z : ZoneIx, s.demanded z = s.shelfDemand z

/-- Own demand is worked out, and a load runs without a configuration. -/
def State.freshDemand (s : State) : Prop :=
  s.zones.ownDemand = s.ownDemandNow ∧ (s.startup.load ≠ .idle → s.startup.config = none)

theorem State.viewFresh_iff (s : State) : s.viewFresh ↔ s.freshDemand ∧ ∀ v, s.freshView v := by
  constructor
  · rintro ⟨ho, hd, hh, hp, hl⟩
    refine ⟨⟨ho, hl⟩, fun v => ?_⟩
    cases v
    · exact hp
    · exact hh
    · exact hd
  · rintro ⟨⟨ho, hl⟩, h⟩
    exact ⟨ho, h .demand, h .holds, h .prerequisites, hl⟩

/-- A judgement made again is fresh. -/
theorem State.takeView_fresh (s : State) (v : View) : (s.takeView v).freshView v := by
  cases v with
  | prerequisites =>
    intro r c hc
    have hc : s.fittedConfig r = some c := hc
    simp only [State.takeView, Four.get_of, hc]
    exact ⟨rfl, rfl⟩
  | holds =>
    intro r
    simp only [State.takeView, Four.get_of]
    rfl
  | demand =>
    intro z
    simp only [State.takeView, State.demanded, Eight.get_of]
    rfl

/-- The other judgements stay as they are. -/
theorem State.takeView_keepsFresh {s : State} {v : View} (w : View) (h : s.freshView v) :
    (s.takeView w).freshView v := by
  by_cases e : v = w
  · exact e ▸ s.takeView_fresh v
  cases v with
  | prerequisites =>
    intro r c hc
    have := h r c ((State.fittedConfig_congr (s.takeView_sameButView w).startup r).symm.trans hc)
    cases w with
    | prerequisites => exact absurd rfl e
    | holds =>
      simp only [State.takeView, Four.get_of]
      exact this
    | demand => exact this
  | holds =>
    intro r
    have := h r
    cases w with
    | holds => exact absurd rfl e
    | prerequisites =>
      simp only [State.takeView, Four.get_of]
      split <;> exact this
    | demand => exact this
  | demand =>
    cases w with
    | demand => exact absurd rfl e
    | prerequisites | holds => exact h

theorem State.SameButView.freshDemand {s t : State} (h : s.SameButView t) (hs : s.freshDemand) : t.freshDemand := by
  unfold State.freshDemand State.ownDemandNow
  rw [h.ownDemand, h.startup, h.dem0, h.dem1, h.port]
  exact hs

/-! ### Moves keep what is fresh -/

theorem State.RailsEnter.freshDemand {s t : State} (h : s.RailsEnter t) (hs : s.freshDemand) : t.freshDemand := by
  unfold State.freshDemand State.ownDemandNow
  rw [h.ownDemand, h.startup, h.dem0, h.dem1, h.portDemand]
  exact hs

theorem State.RailsEnter.sameView {s t : State} (h : s.RailsEnter t) : s.SameView t := .of_eq h.startup h.peers

theorem State.RailsEnter.freshView {s t : State} (h : s.RailsEnter t) {v : View} (hs : s.freshView v) :
    t.freshView v := by
  have hv := h.sameView
  cases v with
  | prerequisites =>
    intro r c hc
    obtain ⟨hg, hu, -⟩ := h.kept r
    rw [hg, hu, hv.remoteAll, hv.remoteAll]
    exact hs r c ((h.fitted r).symm.trans hc)
  | holds =>
    intro r
    rw [(h.kept r).2.2, hv.peersHold]
    exact hs r
  | demand =>
    intro z
    rw [h.demanded, hv.shelfDemand h.ownDemand]
    exact hs z

theorem State.RailsEnter.viewFresh {s t : State} (h : s.RailsEnter t) (hs : s.viewFresh) : t.viewFresh := by
  rw [State.viewFresh_iff] at hs ⊢
  exact ⟨h.freshDemand hs.1, fun v => h.freshView (hs.2 v)⟩

/-! ### Judgements make the view fresh -/

theorem State.judge_freshDemand {s : State} (o : Occasion) (v : View) (h : s.freshDemand) :
    (s.judge o v).freshDemand :=
  (State.RailsEnter.settle _ o).freshDemand ((s.takeView_sameButView v).freshDemand h)

theorem State.judge_fresh (s : State) (o : Occasion) (v : View) : (s.judge o v).freshView v :=
  (State.RailsEnter.settle _ o).freshView (s.takeView_fresh v)

theorem State.judge_keepsFresh {s : State} (o : Occasion) {v : View} (w : View) (h : s.freshView v) :
    (s.judge o w).freshView v :=
  (State.RailsEnter.settle _ o).freshView (State.takeView_keepsFresh w h)

/-- Once all three judgements are made, the view is fresh (R105, R110). -/
theorem State.judgeAll_viewFresh {s : State} (o : Occasion) (h : s.freshDemand) : (s.judgeAll o).viewFresh := by
  have chain (l : List View) : ∀ t : State, t.freshDemand →
      (l.foldl (fun u v => u.judge o v) t).freshDemand ∧
      ∀ v, v ∈ l ∨ t.freshView v → (l.foldl (fun u v => u.judge o v) t).freshView v := by
    induction l with
    | nil => exact fun t ht => ⟨ht, fun v hv => hv.resolve_left List.not_mem_nil⟩
    | cons w l ih =>
      intro t ht
      obtain ⟨hd, hv⟩ := ih _ (t.judge_freshDemand o w ht)
      refine ⟨hd, fun v h => hv v ?_⟩
      rcases h with h | h
      · rcases List.mem_cons.1 h with rfl | h
        · exact .inr (t.judge_fresh o v)
        · exact .inl h
      · exact .inr (State.judge_keepsFresh o w h)
  obtain ⟨hd, hv⟩ := chain (viewOrder o) s h
  exact (State.viewFresh_iff _).2 ⟨hd, fun v => hv v (.inl (viewOrder_mem o v))⟩

/-- All three judgements made again without moves make the view fresh. -/
theorem State.rejudge_viewFresh {s : State} (h : s.freshDemand) : s.rejudge.viewFresh := by
  refine (State.viewFresh_iff _).2 ⟨?_, fun v => ?_⟩
  · exact (State.takeView_sameButView _ _).freshDemand
      ((State.takeView_sameButView _ _).freshDemand ((State.takeView_sameButView _ _).freshDemand h))
  · cases v with
    | prerequisites => exact State.takeView_keepsFresh _ (State.takeView_keepsFresh _ (State.takeView_fresh _ _))
    | holds => exact State.takeView_keepsFresh _ (State.takeView_fresh _ _)
    | demand => exact State.takeView_fresh _ _

/-- A new own demand, judged, leaves the view fresh (R75, R76). -/
theorem State.judgeDemand_viewFresh {s : State} (o : Occasion) (hd : s.freshDemand)
    (hp : s.freshView .prerequisites) (hh : s.freshView .holds) : (s.judge o .demand).viewFresh := by
  refine (State.viewFresh_iff _).2 ⟨State.judge_freshDemand o _ hd, fun v => ?_⟩
  cases v with
  | prerequisites => exact State.judge_keepsFresh o _ hp
  | holds => exact State.judge_keepsFresh o _ hh
  | demand => exact State.judge_fresh s o .demand

/-- A change of the peer table that the view does not see leaves the view fresh. -/
theorem State.SameView.viewFresh {s t : State} (h : s.SameView t) (hs : t.startup = s.startup)
    (hr : ∀ r, (t.rails.get r).remoteGood = (s.rails.get r).remoteGood ∧
      (t.rails.get r).remoteUp = (s.rails.get r).remoteUp ∧ (t.rails.get r).peerHeld = (s.rails.get r).peerHeld)
    (he : t.zones.entries = s.zones.entries) (ho : t.zones.ownDemand = s.zones.ownDemand)
    (h0 : t.zones.dem0 = s.zones.dem0) (h1 : t.zones.dem1 = s.zones.dem1)
    (hp : t.port.portDemand = s.port.portDemand) (hf : s.viewFresh) : t.viewFresh := by
  obtain ⟨hown, hd, hh, hg, hl⟩ := hf
  refine ⟨?_, fun z => ?_, fun r => ?_, fun r c hc => ?_, by rwa [hs]⟩
  · unfold State.ownDemandNow
    rw [ho, hs, h0, h1, hp]
    exact hown
  · rw [h.shelfDemand ho, ← hd z]
    simp [State.demanded, he]
  · rw [(hr r).2.2, h.peersHold]
    exact hh r
  · rw [(hr r).1, (hr r).2.1, h.remoteAll, h.remoteAll]
    exact hg r c ((State.fittedConfig_congr hs r).symm.trans hc)

theorem State.ownEntryLost_sameView (s : State) : s.SameView s.ownEntryLost := by
  unfold State.ownEntryLost
  split
  · exact .updateOwn _ rfl rfl
  · exact .of_eq rfl rfl

theorem State.enterListen_viewFresh {s : State} (h : s.viewFresh) : s.enterListen.viewFresh := by
  rw [State.enterListen_eq]
  exact State.SameView.viewFresh (s := s) ⟨rfl, s.ownEntryLost_sameView.peers⟩ rfl (fun _ => ⟨rfl, rfl, rfl⟩) rfl rfl
    rfl rfl rfl h

theorem State.enterMuted_viewFresh {s : State} (k : MuteCause) (h : s.viewFresh) : (s.enterMuted k).viewFresh := by
  rw [State.enterMuted_eq]
  exact State.SameView.viewFresh (s := s) ⟨rfl, s.ownEntryLost_sameView.peers⟩ rfl (fun _ => ⟨rfl, rfl, rfl⟩) rfl rfl
    rfl rfl rfl h

theorem State.beginLoad_viewFresh (s : State) (straps : BitVec 5) : (s.beginLoad straps).viewFresh :=
  State.rejudge_viewFresh ⟨rfl, fun _ => rfl⟩

/-- A load fails with no configuration before it either. -/
theorem State.loadFails_viewFresh {s : State} (e : ConfigErrorKind) (r : RailIx) (hl : s.startup.load ≠ .idle)
    (h : s.viewFresh) : (s.loadFails e r).viewFresh := by
  obtain ⟨hown, hd, hh, -, hc⟩ := h
  refine ⟨?_, hd, hh, fun q c hq => ?_, fun _ => rfl⟩
  · show s.zones.ownDemand = 0
    rw [hown]
    simp [State.ownDemandNow, hc hl]
  · rw [State.fittedConfig_none rfl] at hq
    cases hq

/-! ### Every event -/

/-- Every event leaves the view fresh, from a state in which it is. -/
theorem State.Event.viewFresh {s t : State} (e : s.Event t) (h : s.viewFresh) : t.viewFresh := by
  have settled {u : State} (o : Occasion) (hu : u.viewFresh) : (u.settle o).viewFresh :=
    (State.RailsEnter.settle u o).viewFresh hu
  obtain ⟨⟨hown, hl⟩, hv⟩ := (State.viewFresh_iff s).1 h
  cases e with
  | dequeued | clock | recordTaken | counted | deglitchStarts | ownSlotEnds | cutOff | collisionCounted | ownFrameEnds
  | silenceSet | reception | errorCounted | duplicateInMuted | sampled => exact h
  | port p hd =>
    exact State.SameView.viewFresh (s := s) (.of_eq rfl rfl) rfl (fun _ => ⟨rfl, rfl, rfl⟩) rfl rfl rfl rfl hd h
  | resetEnds cause straps => exact State.beginLoad_viewFresh _ straps
  | resetBegins cause level =>
    have hr : (s.enterReset cause).viewFresh := State.rejudge_viewFresh ⟨rfl, fun _ => rfl⟩
    exact hr
  | loadFailed e r hl => exact State.loadFails_viewFresh e r hl h
  | loaded o image img =>
    rw [State.loadSucceeds_eq, State.enterListen_eq]
    exact settled o (State.rejudge_viewFresh ⟨rfl, fun hl => absurd rfl hl⟩)
  | demandSet o | pinTaken o => exact State.judgeDemand_viewFresh o ⟨rfl, hl⟩ (hv .prerequisites) (hv .holds)
  | pinChanged pin =>
    cases pin <;> exact h
  | zoneCleared o z => exact (State.RailsEnter.clear s o z).viewFresh h
  | resumed o => exact settled o (State.enterListen_viewFresh h)
  | restartAccepted o =>
    exact settled o ((State.RailsEnter.takeDownAll _ _ _).viewFresh
      ((State.viewFresh_iff _).2 ⟨⟨hown, fun hi => absurd rfl hi⟩, hv⟩))
  | reloaded straps | reinitialised straps => exact State.beginLoad_viewFresh _ straps
  | dropoutEnds => exact (State.RailsEnter.queueRecord _ _).viewFresh h
  | faulted o r k => exact (State.RailsEnter.faultRail s o r k).viewFresh h
  | qualified o r c hc => exact (State.RailsEnter.qualify hc o).viewFresh h
  | discharged o r c hc => exact (State.RailsEnter.discharged hc o).viewFresh h
  | settleExpired o r c hc => exact settled o ((State.RailsEnter.enterRamping hc).viewFresh h)
  | drainForced o r c t hc => exact (State.RailsEnter.drainForced hc _ o).viewFresh h
  | drainContinued r c t =>
    rw [State.queueRecord_eq]
    refine State.SameView.viewFresh (s := s) (.of_eq rfl rfl) rfl (fun q => ?_) rfl rfl rfl rfl rfl h
    by_cases e : q = r <;> simp [Four.get_set, e]
  | missChecked o k => exact State.missCheck_keeps_of k h fun _ => State.judgeAll_viewFresh o ⟨hown, hl⟩
  | slotBegins k t =>
    exact State.SameView.viewFresh (s := s)
      (.updateUnseen (g := fun p => { p with heard := false }) (fun _ => rfl) rfl rfl) rfl
      (fun _ => ⟨rfl, rfl, rfl⟩) rfl rfl rfl rfl rfl h
  | listenCounted o => exact State.countListen_keeps_of h (fun _ => h) fun _ _ _ => settled o h
  | frameBuilt img f last =>
    exact State.SameView.viewFresh (s := s) (.updateOwn _ rfl rfl) rfl (fun _ => ⟨rfl, rfl, rfl⟩) rfl rfl rfl rfl rfl h
  | listens o => exact settled o (State.enterListen_viewFresh h)
  | muted o k => exact settled o (State.enterMuted_viewFresh k h)
  | coldStarted o => exact settled o h
  | timingTaken f t0 => exact State.takeTiming_keeps_of f t0 h (fun _ => h) fun _ => h
  | reportTaken o f => exact State.takeReport_keeps_of f fun _ => State.judgeAll_viewFresh o ⟨hown, hl⟩
  | zoneBytesTaken o f => exact (State.RailsEnter.takeZoneBytes s o f).viewFresh h

/-! ### What a hold list and a remote prerequisite say -/

/-- The rail of an index is `r` exactly when its two low bits are `r`'s. -/
theorem RailIx.ofIndex_eq_iff (n : Nat) (r : RailIx) : RailIx.ofIndex n = r ↔ n % 4 = r.toNat := by
  have h : n % 4 < 4 := Nat.mod_lt _ (by decide)
  unfold RailIx.ofIndex
  generalize n % 4 = m at h
  interval_cases m <;> cases r <;> simp [RailIx.toNat]

/-- The reference in a byte (Table 58): the station in bits 6 to 2, the rail in bits 1 and 0. -/
theorem Ref.ofByte_eq_iff (b : Byte) (n : Nat) (r : RailIx) :
    Ref.ofByte b = { station := n, rail := r } ↔ b.toNat / 4 % 32 = n ∧ b.toNat % 4 = r.toNat := by
  simp only [Ref.ofByte, Ref.mk.injEq, RailIx.ofIndex_eq_iff, BitVec.extractLsb'_toNat, Nat.shiftRight_eq_div_pow]
  norm_num

theorem State.peersHold_iff (s : State) (r : RailIx) :
    s.peersHold r = true ↔ ∃ (n : Nat) (p : Peer) (b : Byte), s.peers[n]? = some p ∧ n ≠ s.own ∧
      p.presence = .present ∧ b ∈ p.holds ∧ b.toNat / 4 % 32 = s.own ∧ b.toNat % 4 = r.toNat := by
  unfold State.peersHold
  rw [zipIdx_any_iff]
  simp only [Bool.and_eq_true, bne_iff_ne, ne_eq, decide_eq_true_eq, List.any_eq_true, Ref.ofByte_eq_iff]
  constructor
  · rintro ⟨n, p, hp, ⟨hn, hpr⟩, b, hb, hs, hr⟩
    exact ⟨n, p, b, hp, hn, hpr, hb, hs, hr⟩
  · rintro ⟨n, p, b, hp, hn, hpr, hb, hs, hr⟩
    exact ⟨n, p, hp, ⟨hn, hpr⟩, b, hb, hs, hr⟩

/-- A station's rail in view is the report of its PRESENT entry (R4, R103). -/
theorem State.peerRail_eq_some_iff (s : State) (n : Nat) (r : RailIx) (st : RailState) :
    s.peerRail n r = some st ↔ ∃ e, s.peers[n]? = some e ∧ e.presence = .present ∧ e.rails.get r = st := by
  unfold State.peerRail
  cases s.peers[n]? <;> simp

/-- The remote part of a condition holds exactly when the report in force of each remote prerequisite does (R4). -/
theorem State.remoteAll_iff (s : State) (c : RailConfig) (ok : RailState → Bool) :
    s.remoteAll c ok = true ↔ ∀ p ∈ c.prerequisites, p.station ≠ s.own →
      ∃ e, s.peers[p.station]? = some e ∧ e.presence = .present ∧ ok (e.rails.get p.rail) = true := by
  unfold State.remoteAll
  rw [List.all_eq_true]
  refine forall₂_congr fun p _ => ?_
  rw [Bool.or_eq_true, beq_iff_eq, or_iff_not_imp_left]
  refine imp_congr_right fun _ => ?_
  cases h : s.peerRail p.station p.rail with
  | none =>
    refine ⟨(nomatch ·), fun ⟨e, he, hp, _⟩ => ?_⟩
    rw [(s.peerRail_eq_some_iff _ _ _).2 ⟨e, he, hp, rfl⟩] at h
    cases h
  | some st =>
    obtain ⟨e, he, hp, hst⟩ := (s.peerRail_eq_some_iff _ _ _).1 h
    simp [he, hp, hst]

/-- GOOD or DRAINING is up (R4). -/
theorem RailState.up_iff (st : RailState) : st.up = true ↔ st = .good ∨ st = .draining := by
  cases st <;> simp [RailState.up]

/-- Settles O58: what holds and remote prerequisites say, and that every event of a step leaves the view fresh. -/
theorem stepKeepsViewFresh : Obligations.StepKeepsViewFresh := by
  refine ⟨State.peersHold_iff, fun s c => ?_, fun s t hs ht => step_keeps (fun _ _ e => e.viewFresh) ht hs⟩
  simp only [State.remoteAll_iff, RailState.up_iff]

end Sys2Proof.Machine

/-! Proofs of the invariants: configuration, phase, slot timer, receiver and peer table fit one another
(`State.phaseSound`), and no rail of a TRIPPED zone or of a station with a restart pending is starting or up
(`State.railsDown`). -/

namespace Sys2Proof.Machine
open Sys2Proof

/-! ### An accepted image is sound (R168 to R170) -/

/-- What check 5 has let pass of a fitted rail's record (R169). -/
theorem railRefused_eq_false {image : List Byte} {own : Nat} {r : RailIx} (h : railRefused image own r = false)
    (hf : (railConfigOf image r).fitted = true) :
    let c := railConfigOf image r
    c.persistence ≠ 0 ∧ c.magnitude ≠ 0 ∧ c.magnitude ≤ c.nominal ∧ c.nominal + c.magnitude ≤ 4095 ∧
    c.dischargeLevel < c.nominal - c.magnitude ∧ c.rampTimeout ≠ 0 ∧ c.dischargeTimeout ≠ 0 ∧
    ∀ p ∈ c.prerequisites, p.station < (imageByte image 3).toNat ∧
      (p.station = own → p.rail ≠ r ∧ (railConfigOf image p.rail).fitted = true) := by
  unfold railRefused at h
  simp only [hf, Bool.true_and, Bool.or_eq_false_iff, decide_eq_false_iff_not, beq_eq_false_iff_ne, List.any_eq_false,
    Bool.and_eq_false_iff, not_lt, not_le, Bool.not_eq_true, Bool.not_eq_eq_eq_not, Bool.not_false] at h
  obtain ⟨⟨⟨⟨⟨⟨⟨⟨⟨-, hp⟩, hm⟩, hn⟩, ht⟩, hd⟩, -⟩, hq⟩, hr⟩, hs⟩ := h
  refine ⟨hp, hm, hn, ht, hd, hr, hs, fun p hpm => ?_⟩
  obtain ⟨⟨ha, hb⟩, hc⟩ := hq p hpm
  exact ⟨ha, fun e => ⟨hb.resolve_left (fun k => k e), hc.resolve_left (fun k => k e)⟩⟩

/-- The fields of a record that a byte bounds. -/
theorem railConfigOf_bounds (image : List Byte) (r : RailIx) :
    (railConfigOf image r).persistence ≤ 255 ∧ (railConfigOf image r).pgDeglitch ≤ 255 ∧
    (railConfigOf image r).prerequisites.length ≤ 6 := by
  refine ⟨?_, ?_, ?_⟩
  · exact Nat.le_of_lt_succ (imageByte image _).isLt
  · exact Nat.le_of_lt_succ (imageByte image _).isLt
  · simp [railConfigOf, prerequisitesOf]

theorem judgeImage_sound {own : Nat} {image : List Byte} {img : Image} (h : judgeImage own image = .accepted img) :
    img.sound own := by
  unfold judgeImage at h
  dsimp only at h
  split at h
  · cases h
  split at h
  · cases h
  split at h
  · cases h
  rename_i hshelf
  split at h
  · cases h
  rename_i hown
  split at h
  · cases h
  rename_i hrails
  split at h
  · cases h
  split at h
  · cases h
  rename_i hhold
  cases h
  simp only [not_or, not_lt] at hshelf
  obtain ⟨h2, h32, hs0, hsF⟩ := hshelf
  refine ⟨h2, h32, Nat.lt_of_not_le hown, hs0, hsF, Nat.le_of_not_lt hhold, fun r hr => ?_⟩
  have hc (q : RailIx) : (imageOf image).rails.get q = railConfigOf image q := by simp [imageOf]
  rw [hc] at hr ⊢
  obtain ⟨h₁, h₂, h₃, h₄, h₅, h₆, h₇, h₈⟩ :=
    railRefused_eq_false (Bool.eq_false_iff.2 (List.find?_eq_none.1 hrails r (RailIx.mem_all r))) hr
  obtain ⟨k₁, k₂, k₃⟩ := railConfigOf_bounds image r
  refine ⟨Nat.one_le_iff_ne_zero.2 h₁, k₁, k₂, Nat.one_le_iff_ne_zero.2 h₆, Nat.one_le_iff_ne_zero.2 h₇, k₃,
    Nat.one_le_iff_ne_zero.2 h₂, h₃, h₄, h₅, fun p hp => ?_⟩
  rw [hc]
  exact h₈ p hp

/-! ### Configuration, phase, timer, receiver and table -/

theorem State.phaseSound_congr {s t : State} (hs : t.startup = s.startup) (hl : t.line = s.line)
    (hr : t.receiver = s.receiver) (hp : t.peers = s.peers) (ht : t.port.transaction = s.port.transaction)
    (h : s.phaseSound) : t.phaseSound := by
  unfold State.phaseSound at h ⊢
  rw [State.own_congr hs, hs, hl, hr, hp, ht]
  exact h

theorem State.RailsEnter.phaseSound {s t : State} (h : s.RailsEnter t) (hs : s.phaseSound) : t.phaseSound :=
  State.phaseSound_congr h.startup h.line h.receiver h.peers h.transaction hs

theorem State.SameButView.phaseSound {s t : State} (h : s.SameButView t) (hs : s.phaseSound) : t.phaseSound :=
  State.phaseSound_congr h.startup h.line h.receiver h.peers (by rw [h.port]) hs

/-- What `State.phaseSound` says of a station with a configuration. -/
structure State.Configured (s : State) (c : Image) : Prop where
  config : s.startup.config = some c
  image : c.sound s.own
  phase : s.line.phase = .listen ∨ s.line.phase = .active ∨ s.line.phase = .muted
  timer : ∃ t, s.line.slotTimer = some t ∧ t.slot < c.shelfSize
  reception : s.receiver.reception ≠ .off
  peers : s.peers.length = c.shelfSize
  load : s.startup.load = .idle
  inReset : s.startup.inReset = none

/-- What `State.phaseSound` says of a station without one. -/
structure State.Unconfigured (s : State) : Prop where
  config : s.startup.config = none
  phase : s.line.phase = .start ∨ s.line.phase = .unconfigured
  timer : s.line.slotTimer = none
  send : s.line.send = .idle
  tx : s.line.tx = none
  reception : s.receiver.reception = .off
  peers : s.peers = []
  loading : s.startup.load ≠ .idle → s.line.phase = .start
  inReset : s.startup.inReset ≠ none → s.line.phase = .start ∧ s.startup.load = .idle ∧
    s.startup.restartPending = false ∧ s.port.transaction ≠ .command

theorem State.Configured.phaseSound {s : State} {c : Image} (h : s.Configured c) : s.phaseSound := by
  refine ⟨?_, fun k => absurd h.load k, fun k => absurd h.inReset k⟩
  rw [h.config]
  exact ⟨h.image, h.phase, h.timer, h.reception, h.peers, h.load, h.inReset⟩

theorem State.Unconfigured.phaseSound {s : State} (h : s.Unconfigured) : s.phaseSound := by
  refine ⟨?_, h.loading, h.inReset⟩
  rw [h.config]
  exact ⟨h.phase, h.timer, h.send, h.tx, h.reception, h.peers⟩

/-- A sound station has a configuration and everything that goes with it, or none and nothing of it. -/
theorem State.phaseSound_cases {s : State} (h : s.phaseSound) : (∃ c, s.Configured c) ∨ s.Unconfigured := by
  obtain ⟨h, hl, hr⟩ := h
  cases hc : s.startup.config with
  | some c =>
    rw [hc] at h
    obtain ⟨h₁, h₂, h₃, h₄, h₅, h₆, h₇⟩ := h
    exact .inl ⟨c, hc, h₁, h₂, h₃, h₄, h₅, h₆, h₇⟩
  | none =>
    rw [hc] at h
    obtain ⟨h₁, h₂, h₃, h₄, h₅, h₆⟩ := h
    exact .inr ⟨hc, h₁, h₂, h₃, h₄, h₅, h₆, hl, hr⟩

/-- What shows a configuration has one. -/
theorem State.phaseSound.configured {s : State} (h : s.phaseSound) (ho : s.onLine) : ∃ c, s.Configured c := by
  rcases State.phaseSound_cases h with h | h
  · exact h
  · have phase {p : LinePhase} (hp : p ≠ .start ∧ p ≠ .unconfigured) (k : s.line.phase = p) :
        ∃ c, s.Configured c := by
      rcases h.phase with e | e
      · exact absurd (k.symm.trans e) hp.1
      · exact absurd (k.symm.trans e) hp.2
    rcases ho with k | k | k | k | k | k
    · exact phase (by simp) k
    · exact phase (by simp) k
    · exact phase (by simp) k
    · exact absurd h.send k
    · exact absurd h.timer k
    · exact absurd h.reception k

/-- A station that loads, or that is UNCONFIGURED, has no configuration. -/
theorem State.phaseSound.unconfigured {s : State} (h : s.phaseSound)
    (hu : s.startup.load ≠ .idle ∨ s.line.phase = .unconfigured) : s.Unconfigured := by
  rcases State.phaseSound_cases h with ⟨c, h⟩ | h
  · rcases hu with k | k
    · exact absurd h.load k
    · rcases h.phase with e | e | e <;> rw [e] at k <;> cases k
  · exact h

/-- Losing the own entry keeps the table's length. -/
theorem State.ownEntryLost_length (s : State) : s.ownEntryLost.peers.length = s.peers.length := by
  unfold State.ownEntryLost
  split <;> simp

theorem State.Configured.enterListen {s : State} {c : Image} (h : s.Configured c) : s.enterListen.Configured c := by
  rw [State.enterListen_eq]
  exact { h with phase := .inl rfl, peers := s.ownEntryLost_length.trans h.peers }

theorem State.Configured.enterMuted {s : State} {c : Image} (h : s.Configured c) (k : MuteCause) :
    (s.enterMuted k).Configured c := by
  rw [State.enterMuted_eq]
  exact { h with phase := .inr (.inr rfl), peers := s.ownEntryLost_length.trans h.peers }

/-- A load that begins outside reset finds nothing of a configuration left. -/
theorem State.beginLoad_phaseSound {s : State} (straps : BitVec 5) (hs : s.line.send = .idle) (ht : s.line.tx = none)
    (hr : s.startup.inReset = none) : (s.beginLoad straps).phaseSound := by
  have hv (u : State) (hu : u.phaseSound) : u.rejudge.phaseSound :=
    (State.takeView_sameButView _ _).phaseSound
      ((State.takeView_sameButView _ _).phaseSound ((State.takeView_sameButView _ _).phaseSound hu))
  refine hv _ (State.Unconfigured.phaseSound ?_)
  exact ⟨rfl, .inl rfl, rfl, hs, ht, rfl, rfl, fun _ => rfl, fun k => absurd hr k⟩

theorem State.judge_phaseSound {s : State} (o : Occasion) (v : View) (h : s.phaseSound) : (s.judge o v).phaseSound :=
  (State.RailsEnter.settle _ o).phaseSound ((s.takeView_sameButView v).phaseSound h)

theorem State.judgeAll_phaseSound {s : State} (o : Occasion) (h : s.phaseSound) : (s.judgeAll o).phaseSound :=
  State.judgeAll_keeps_of (P := State.phaseSound) (fun _ v => State.judge_phaseSound o v) h

/-- A change of one peer entry keeps everything fitting. -/
theorem State.updatePeer_phaseSound {s : State} (n : Nat) (g : Peer → Peer) (h : s.phaseSound) :
    (s.updatePeer n g).phaseSound := by
  rcases State.phaseSound_cases h with ⟨c, h⟩ | h
  · exact State.Configured.phaseSound { h with peers := (List.length_modify _ _ _).trans h.peers }
  · exact State.Unconfigured.phaseSound { h with peers := by simp [h.peers] }

/-- A new slot of the shelf, the rest of the line's phase and the table's length kept. -/
theorem State.Configured.slotTimer {s t : State} {c : Image} (h : s.Configured c) {k n : Nat}
    (hs : t.startup = s.startup) (hp : t.line.phase = s.line.phase)
    (ht : t.line.slotTimer = some { slot := k, start := n }) (hk : k < c.shelfSize)
    (hr : t.receiver.reception = s.receiver.reception) (hl : t.peers.length = s.peers.length) : t.Configured c where
  config := by rw [hs, h.config]
  image := by rw [State.own_congr hs]; exact h.image
  phase := by rw [hp]; exact h.phase
  timer := ⟨_, ht, hk⟩
  reception := by rw [hr]; exact h.reception
  peers := hl.trans h.peers
  load := by rw [hs, h.load]
  inReset := by rw [hs, h.inReset]

/-- A shelf's slots are those of its configuration. -/
theorem State.Configured.shelfSize {s : State} {c : Image} (h : s.Configured c) : s.shelfSize = c.shelfSize := by
  simp [State.shelfSize, h.config]

/-! ### Every event -/

/-- Every event keeps configuration, phase, slot timer, receiver and peer table fitting. -/
theorem State.Event.phaseSound {s t : State} (e : s.Event t) (h : s.phaseSound) : t.phaseSound := by
  have settled {u : State} (o : Occasion) (hu : u.phaseSound) : (u.settle o).phaseSound :=
    (State.RailsEnter.settle u o).phaseSound hu
  have onLine (ho : s.onLine) : ∃ c, s.Configured c := h.configured ho
  cases e with
  | dequeued | clock | recordTaken | counted | deglitchStarts | sampled | silenceSet | pinChanged | collisionCounted
  | errorCounted | duplicateInMuted => exact h
  | port p hd hc =>
    obtain ⟨h, hl, hr⟩ := h
    refine ⟨h, hl, fun hi => ?_⟩
    obtain ⟨k₁, k₂, k₃, k₄⟩ := hr hi
    exact ⟨k₁, k₂, k₃, fun hp => (hc hp).elim k₄ hi⟩
  | resetEnds cause straps => exact State.beginLoad_phaseSound straps rfl rfl rfl
  | resetBegins cause level =>
    have hu : (s.enterReset cause).Unconfigured :=
      ⟨rfl, .inl rfl, rfl, rfl, rfl, rfl, rfl, fun _ => rfl, fun _ => ⟨rfl, rfl, rfl, (nomatch ·)⟩⟩
    exact hu.phaseSound
  | loadFailed e r hl =>
    have hu := h.unconfigured (.inl hl)
    have hi : s.startup.inReset = none := by
      by_contra k
      exact hl (hu.inReset k).2.1
    exact State.Unconfigured.phaseSound
      ⟨rfl, .inr rfl, hu.timer, hu.send, hu.tx, hu.reception, hu.peers, fun k => absurd rfl k, fun k => absurd hi k⟩
  | loaded o image img hl hj =>
    have hu := h.unconfigured (.inl hl)
    have hi : s.startup.inReset = none := by
      by_contra k
      exact hl (hu.inReset k).2.1
    have himg := judgeImage_sound hj
    have hc : (s.withImage img).enterListen.Configured img := by
      rw [State.enterListen_eq]
      refine ⟨rfl, himg, .inl rfl, ⟨_, rfl, ?_⟩, by simp [State.withImage], ?_, rfl, hi⟩
      · exact Nat.lt_of_lt_of_le Nat.zero_lt_two himg.1
      · exact (State.ownEntryLost_length _).trans List.length_replicate
    rw [State.loadSucceeds_eq]
    have hd : (s.withImage img).enterListen.workOutDemand.phaseSound := hc.phaseSound
    exact settled o ((State.takeView_sameButView _ _).phaseSound
      ((State.takeView_sameButView _ _).phaseSound ((State.takeView_sameButView _ _).phaseSound hd)))
  | demandSet o | pinTaken o => exact State.judge_phaseSound o _ h
  | zoneCleared o z => exact (State.RailsEnter.clear s o z).phaseSound h
  | resumed o hp =>
    obtain ⟨c, hc⟩ := onLine (.inr (.inr (.inl hp)))
    have hl := hc.enterListen
    refine settled o (State.Configured.phaseSound (c := c) ?_)
    exact { hl with reception := hc.reception }
  | restartAccepted o hp =>
    refine settled o ((State.RailsEnter.takeDownAll _ _ _).phaseSound ?_)
    rcases State.phaseSound_cases h with ⟨c, h⟩ | h
    · exact State.Configured.phaseSound (c := c) { h with load := rfl }
    · exact State.Unconfigured.phaseSound
        { h with loading := fun k => absurd rfl k, inReset := fun k => absurd hp (h.inReset k).2.2.2 }
  | reloaded straps hp =>
    have hu := h.unconfigured (.inr hp)
    refine State.beginLoad_phaseSound straps hu.send hu.tx ?_
    by_contra k
    have := (hu.inReset k).1
    rw [hp] at this
    cases this
  | reinitialised straps hr =>
    have hi : s.startup.inReset = none := by
      by_contra k
      obtain ⟨-, -, hp, -⟩ := h.2.2 k
      simp [State.reinitialises, hp] at hr
    rw [State.setFlagIf_eq]
    exact State.beginLoad_phaseSound straps rfl rfl hi
  | dropoutEnds => exact (State.RailsEnter.queueRecord _ _).phaseSound h
  | faulted o r k => exact (State.RailsEnter.faultRail s o r k).phaseSound h
  | qualified o r c hc => exact (State.RailsEnter.qualify hc o).phaseSound h
  | discharged o r c hc => exact (State.RailsEnter.discharged hc o).phaseSound h
  | settleExpired o r c hc => exact settled o ((State.RailsEnter.enterRamping hc).phaseSound h)
  | drainForced o r c t hc => exact (State.RailsEnter.drainForced hc _ o).phaseSound h
  | drainContinued r c t =>
    rw [State.queueRecord_eq]
    exact h
  | ownSlotEnds ho =>
    obtain ⟨c, hc⟩ := onLine ho
    refine State.Configured.phaseSound (c := c) { hc with reception := ?_ }
    dsimp only
    split
    · exact (nomatch ·)
    · exact hc.reception
  | missChecked o k =>
    exact State.missCheck_keeps_of k h fun _ => State.judgeAll_phaseSound o (State.updatePeer_phaseSound _ _ h)
  | slotBegins k t hs hk =>
    obtain ⟨c, hc⟩ := onLine (.inr (.inr (.inr (.inr (.inl hs)))))
    have hn := hc.image.1
    rw [hc.shelfSize] at hk
    exact State.Configured.phaseSound (hc.slotTimer (k := k) (n := t) rfl rfl rfl (by omega) rfl
      (List.length_modify _ _ _))
  | listenCounted o =>
    refine State.countListen_keeps_of h (fun _ => h) fun hp _ _ => settled o ?_
    obtain ⟨c, hc⟩ := onLine (.inl hp)
    exact State.Configured.phaseSound (c := c) { hc with phase := .inr (.inl rfl) }
  | frameBuilt img f last out hc =>
    rcases State.phaseSound_cases h with ⟨c, h⟩ | h
    · exact State.Configured.phaseSound (c := c)
        { h with reception := (nomatch ·), peers := (List.length_modify _ _ _).trans h.peers }
    · rw [h.config] at hc
      cases hc
  | cutOff f hs =>
    obtain ⟨c, hc⟩ := onLine (.inr (.inr (.inr (.inl (by simp [hs])))))
    exact State.Configured.phaseSound (c := c) { hc with }
  | ownFrameEnds f hs =>
    obtain ⟨c, hc⟩ := onLine (.inr (.inr (.inr (.inl (by simp [hs])))))
    exact State.Configured.phaseSound (c := c) { hc with }
  | listens o ho =>
    obtain ⟨c, hc⟩ := onLine ho
    exact settled o hc.enterListen.phaseSound
  | muted o k ho =>
    obtain ⟨c, hc⟩ := onLine ho
    exact settled o (hc.enterMuted k).phaseSound
  | coldStarted o hp =>
    obtain ⟨c, hc⟩ := onLine (.inl hp)
    refine settled o (State.Configured.phaseSound (c := c) ?_)
    exact { hc with phase := .inr (.inl rfl), timer := ⟨_, rfl, hc.image.2.2.1⟩ }
  | reception x hs hx =>
    obtain ⟨c, hc⟩ := onLine (.inr (.inr (.inr (.inr (.inr hs)))))
    exact State.Configured.phaseSound (c := c) { hc with reception := hx }
  | timingTaken f t0 hf =>
    refine State.takeTiming_keeps_of f t0 h (fun hs => ?_) fun _ => h
    obtain ⟨c, hc⟩ := onLine (.inr (.inr (.inr (.inr (.inl hs)))))
    rw [hc.shelfSize] at hf
    exact (hc.slotTimer (t := s.setTiming f.station.toNat t0 f.cycle) rfl rfl rfl hf rfl rfl).phaseSound
  | reportTaken o f =>
    exact State.takeReport_keeps_of f fun _ => State.judgeAll_phaseSound o (State.updatePeer_phaseSound _ _ h)
  | zoneBytesTaken o f => exact (State.RailsEnter.takeZoneBytes s o f).phaseSound h

/-! ### Rails that are down (R2, R23, R26) -/

/-- OFF, FALLING and FAULT. -/
def RailState.down (st : RailState) : Prop := st = .off ∨ st = .falling ∨ st = .fault

/-- The rails of this configuration may not be starting or up: their zone is TRIPPED or a restart is pending. -/
def State.barred (s : State) (c : RailConfig) : Prop := s.zoneNormal c.zone = false ∨ s.startup.restartPending = true

/-- `State.railsDown`, but for the fitted rails that `which` names. -/
def State.railsDownBut (which : RailConfig → Bool) (s : State) : Prop :=
  ∀ r : RailIx,
    (s.fittedConfig r = none → (s.rails.get r).state = .off) ∧
    ∀ c, s.fittedConfig r = some c → s.barred c → which c = false → (s.rails.get r).state.down

theorem State.railsDown_iff (s : State) : s.railsDown ↔ s.railsDownBut (fun _ => false) := by
  refine forall_congr' fun r => ?_
  cases s.fittedConfig r with
  | none => simp
  | some c =>
    simp only [reduceCtorEq, false_imp_iff, true_and, Option.some.injEq, forall_eq', forall_const]
    rfl

/-- A closed gate: no rail starts while it is barred. -/
theorem State.barred.gateClosed {s : State} {c : RailConfig} (h : s.barred c) : s.gateOpen c = false := by
  rcases h with h | h <;> simp [State.gateOpen, h]

/-- A rail that is down moves through its open gate alone. -/
theorem State.Reaction.not_down {s u : State} {r : RailIx} {c : RailConfig} (h : s.Reaction r c u)
    (hb : s.barred c) : ¬ (s.rails.get r).state.down := by
  have hg := hb.gateClosed
  intro hd
  unfold RailState.down at hd
  cases h with
  | opens _ h =>
    rw [hg] at h
    cases h
  | shuts hs => rcases hs with e | e <;> simp [e] at hd
  | loses hs => rcases hs with e | e | e <;> simp [e] at hd
  | starts hs | waits hs | drains hs | released hs | returns hs => simp [hs] at hd

/-- One fitted rail changes, and is not taken out of the states that are down. -/
theorem State.railsDownBut.ofOne {s t : State} {which : RailConfig → Bool} {r : RailIx} {c : RailConfig}
    (h : s.railsDownBut which) (hc : s.fittedConfig r = some c) (hs : t.startup = s.startup)
    (hz : ∀ z, t.zoneNormal z = s.zoneNormal z) (ho : ∀ q, q ≠ r → t.rails.get q = s.rails.get q)
    (hr : s.barred c → (s.rails.get r).state.down → (t.rails.get r).state.down) : t.railsDownBut which := by
  intro q
  obtain ⟨hn, hq⟩ := h q
  have barred (d : RailConfig) : t.barred d ↔ s.barred d := by
    unfold State.barred
    rw [hs, hz]
  rw [State.fittedConfig_congr hs]
  by_cases e : q = r
  · subst e
    refine ⟨fun k => ?_, fun d hd hb hw => ?_⟩
    · rw [hc] at k
      cases k
    · rw [hc] at hd
      cases hd
      exact hr ((barred c).1 hb) (hq c hc ((barred c).1 hb) hw)
  · rw [ho q e]
    exact ⟨hn, fun d hd hb => hq d hd ((barred d).1 hb)⟩

/-- The rails' states and what bars them are the same. -/
theorem State.railsDownBut.congr {s t : State} {which : RailConfig → Bool} (h : s.railsDownBut which)
    (hs : t.startup = s.startup) (hz : ∀ z, t.zoneNormal z = s.zoneNormal z)
    (hr : ∀ r, (t.rails.get r).state = (s.rails.get r).state) : t.railsDownBut which := by
  intro q
  rw [State.fittedConfig_congr hs, hr]
  unfold State.barred
  rw [hs]
  simp only [hz]
  exact h q

/-- A move of a rail that is not down. -/
theorem State.railsDownBut.ofMoves {s t : State} {which : RailConfig → Bool} {r : RailIx}
    (h : s.railsDownBut which) (hm : s.movable r) (hd : ¬ (s.rails.get r).state.down) (moves : s.MovesTo t)
    (ho : ∀ q, q ≠ r → t.rails.get q = s.rails.get q) : t.railsDownBut which := by
  obtain ⟨c, hc⟩ := Option.ne_none_iff_exists'.1 hm.1
  exact h.ofOne hc moves.startup moves.zoneNormal ho fun _ k => absurd k hd

/-- Moves of Table 10 take no rail out of the states that are down while it is barred. -/
theorem State.railsDown_ofMoves {o : Occasion} {s t : State}
    (h : Relation.ReflTransGen (State.MovesOnce o) s t) (hs : s.railsDownBut (fun _ => false)) :
    t.railsDownBut (fun _ => false) := by
  induction h with
  | refl => exact hs
  | tail _ h ih =>
    obtain ⟨r, hr⟩ := h
    obtain ⟨c, hc, hm⟩ := State.react_reaction hr
    have moves := State.MovesTo.react hr
    exact ih.ofOne hc moves.startup moves.zoneNormal (fun q e => (State.react_sameRail hr q e).1)
      fun hb hd => absurd hd (hm.not_down hb)

theorem State.settle_railsDown {s : State} (o : Occasion) (h : s.railsDownBut (fun _ => false)) :
    (s.settle o).railsDownBut (fun _ => false) := State.railsDown_ofMoves (s.settle_reaches o) h

theorem State.takeView_railsDown {s : State} (v : View) {which : RailConfig → Bool} (h : s.railsDownBut which) :
    (s.takeView v).railsDownBut which := by
  have hv := s.takeView_sameButView v
  refine h.congr hv.startup hv.condition fun r => ?_
  obtain ⟨_, _, _, e⟩ := s.takeView_rail v r
  rw [e]

theorem State.judge_railsDown {s : State} (o : Occasion) (v : View) (h : s.railsDownBut (fun _ => false)) :
    (s.judge o v).railsDownBut (fun _ => false) := State.settle_railsDown o (State.takeView_railsDown v h)

theorem State.judgeAll_railsDown {s : State} (o : Occasion) (h : s.railsDownBut (fun _ => false)) :
    (s.judgeAll o).railsDownBut (fun _ => false) :=
  State.judgeAll_keeps_of (P := State.railsDownBut (fun _ => false)) (fun _ v => State.judge_railsDown o v) h

/-- A trip or a restart takes down the rails that were still to be (R23, R26). -/
theorem State.takeDownAll_railsDown {s : State} (k : FallCause) (which : RailConfig → Bool)
    (h : s.railsDownBut which) : (s.takeDownAll k which).railsDownBut (fun _ => false) := by
  rw [State.takeDownAll_eq]
  intro r
  obtain ⟨hn, hr⟩ := h r
  refine ⟨fun k => ?_, fun c hc hb _ => ?_⟩
  · have hc : s.fittedConfig r = none := k
    simp only [Four.get_of, State.downRail, hc]
    exact hn hc
  · have hc : s.fittedConfig r = some c := hc
    simp only [Four.get_of, State.downRail, hc]
    split
    · exact Rail.takenDown_state _ _ _ _
    · exact hr c hc hb (by simp_all)

/-- A release from FAULT to OFF (R30). -/
theorem State.releaseFaults_railsDown {s : State} (zones : ZoneIx → Bool) {which : RailConfig → Bool}
    (h : s.railsDownBut which) : (s.releaseFaults zones).railsDownBut which := by
  rw [State.releaseFaults_eq]
  intro r
  obtain ⟨hn, hr⟩ := h r
  simp only [Four.get_of]
  split
  · exact ⟨fun _ => rfl, fun _ _ _ _ => .inl rfl⟩
  · exact ⟨hn, hr⟩

theorem State.queueRecord_railsDown {s : State} (x : TimingRecord) {which : RailConfig → Bool}
    (h : s.railsDownBut which) : (s.queueRecord x).railsDownBut which := by
  rw [State.queueRecord_eq]
  exact h

/-- The zones change: a rail is left out when its zone is TRIPPED now and was not. -/
theorem State.setEntries_railsDown {s : State} (x : Eight Zone) (which : RailConfig → Bool)
    (hx : ∀ c : RailConfig, (x.get c.zone).condition ≠ .normal →
      (s.zones.entries.get c.zone).condition ≠ .normal ∨ which c = true)
    (h : s.railsDownBut (fun _ => false)) :
    State.railsDownBut which { s with zones := { s.zones with entries := x } } := by
  intro r
  obtain ⟨hn, hr⟩ := h r
  refine ⟨hn, fun c hc hb hw => hr c hc ?_ rfl⟩
  rcases hb with hb | hb
  · rcases hx c (by simpa [State.zoneNormal] using hb) with k | k
    · exact .inl (by simpa [State.zoneNormal] using k)
    · rw [hw] at k
      cases k
  · exact .inr hb

theorem State.localTrip_railsDown {s : State} (z : ZoneIx) (t : TripRecord) (h : s.railsDownBut (fun _ => false)) :
    (s.localTrip z t).railsDownBut (fun _ => false) := by
  have hz (e : Zone) : (s.setZone z e).railsDownBut (fun c => decide (c.zone = z)) :=
    State.setEntries_railsDown _ _ (fun c hc => by
      by_cases k : c.zone = z
      · exact .inr (decide_eq_true k)
      · rw [Eight.get_set_other _ _ k] at hc
        exact .inl hc) h
  unfold State.localTrip
  dsimp only
  refine State.takeDownAll_railsDown _ _ ?_
  split <;> exact hz _

theorem State.enterFault_railsDown {s : State} {r : RailIx} {c : RailConfig} (hc : s.fittedConfig r = some c)
    (k : FaultKind) (h : s.railsDownBut (fun _ => false)) :
    (s.enterFault c r k).railsDownBut (fun _ => false) := by
  have hf : (s.faulted r k).railsDownBut (fun _ => false) := by
    rw [State.faulted_eq]
    refine h.ofOne hc rfl (fun _ => rfl) (fun q e => Four.get_set_other _ _ e) fun _ _ => .inr (.inr ?_)
    simp [Rail.entered]
  rw [State.enterFault_eq]
  split
  · exact State.localTrip_railsDown _ _ hf
  · exact hf

theorem State.faultRail_railsDown {s : State} (o : Occasion) (r : RailIx) (k : FaultKind)
    (h : s.railsDownBut (fun _ => false)) : (s.faultRail o r k).railsDownBut (fun _ => false) := by
  unfold State.faultRail
  split
  · exact h
  · rename_i c hc
    split
    · exact State.settle_railsDown o (State.enterFault_railsDown hc k h)
    · exact h

/-- The zone entry a frame trips is one whose rails it moves (R87 to R91). -/
theorem State.zoneOutcome_moved (s : State) (f : Frame) (z : ZoneIx)
    (h : (s.zoneOutcome f z).entry.condition ≠ .normal) :
    (s.zones.entries.get z).condition ≠ .normal ∨ (s.zoneOutcome f z).moved = true := by
  have compare (e : Zone) (g : Byte) (b : Bool) (p : Option TripRecord)
      (h : (compareZone e g b p).entry.condition ≠ .normal) :
      e.condition ≠ .normal ∨ (compareZone e g b p).moved = true := by
    by_cases he : e.condition = .normal
    · refine .inr ?_
      revert h
      unfold compareZone
      rw [he]
      dsimp only
      split
      · split <;> simp
      · split <;> simp [ZoneOutcome.unchanged, he]
    · exact .inl he
  have adopt (e : Zone) (g : Byte) (b : Bool) (p : Option TripRecord)
      (h : (adoptZone e g b p).entry.condition ≠ .normal) :
      e.condition ≠ .normal ∨ (adoptZone e g b p).moved = true := by
    revert h
    unfold adoptZone
    split <;> simp
  unfold State.zoneOutcome at h ⊢
  dsimp only at h ⊢
  split at h
  · rename_i hl
    rw [if_pos hl]
    exact adopt _ _ _ _ h
  · rename_i hl
    rw [if_neg hl]
    exact compare _ _ _ _ h

theorem State.takeZoneBytes_railsDown {s : State} (o : Occasion) (f : Frame) (h : s.railsDownBut (fun _ => false)) :
    (s.takeZoneBytes o f).railsDownBut (fun _ => false) := by
  unfold State.takeZoneBytes
  dsimp only
  refine State.settle_railsDown o (State.takeDownAll_railsDown _ _ (State.releaseFaults_railsDown _ ?_))
  rw [State.setFlagIf_eq, State.setFlagIf_eq]
  exact State.setEntries_railsDown (s := s) _ _ (fun c hc => by
    simp only [Eight.get_of] at hc ⊢
    exact s.zoneOutcome_moved f c.zone hc) h

theorem State.clear_railsDown {s : State} (o : Occasion) (z : ZoneIx) (h : s.railsDownBut (fun _ => false)) :
    (s.clear o z).railsDownBut (fun _ => false) := by
  have hz (e : Zone) (he : e.condition = .normal) : (s.setZone z e).railsDownBut (fun _ => false) :=
    State.setEntries_railsDown _ _ (fun c hc => by
      by_cases k : c.zone = z
      · rw [k, Eight.get_set_same] at hc
        exact absurd he hc
      · rw [Eight.get_set_other _ _ k] at hc
        exact .inl hc) h
  unfold State.clear
  have hf := State.releaseFaults_railsDown (fun y => decide (y = z))
    (hz { s.zones.entries.get z with
      generation := (s.zones.entries.get z).generation + 1, condition := .normal, record := none } rfl)
  exact State.settle_railsDown o (hf.congr (State.setFlag_startup _ _)
    (fun y => by rw [State.zoneNormal, State.setFlag_zones, State.zoneNormal]) fun r => by rw [State.setFlag_rails])

/-- With every rail in OFF nothing is starting or up. -/
theorem railsDownBut_of_off {s : State} {which : RailConfig → Bool} (h : ∀ r, (s.rails.get r).state = .off) :
    s.railsDownBut which := fun r => ⟨fun _ => h r, fun _ _ _ _ => .inl (h r)⟩

/-- Without a configuration every rail is in OFF. -/
theorem State.railsDownBut.off {s : State} {which : RailConfig → Bool} (h : s.railsDownBut which)
    (hc : s.startup.config = none) (r : RailIx) : (s.rails.get r).state = .off :=
  (h r).1 (State.fittedConfig_none hc r)

theorem State.rejudge_railsDown {s : State} {which : RailConfig → Bool} (h : s.railsDownBut which) :
    s.rejudge.railsDownBut which :=
  State.takeView_railsDown _ (State.takeView_railsDown _ (State.takeView_railsDown _ h))

/-! ### Every event -/

/-- Every event keeps the rails down that are barred. -/
theorem State.Event.railsDown {s t : State} (e : s.Event t) (hp : s.phaseSound)
    (h : s.railsDownBut (fun _ => false)) : t.railsDownBut (fun _ => false) := by
  have settled {u : State} (o : Occasion) (hu : u.railsDownBut (fun _ => false)) :
      (u.settle o).railsDownBut (fun _ => false) := State.settle_railsDown o hu
  cases e with
  | dequeued | clock | port | recordTaken | counted | deglitchStarts | sampled | silenceSet | collisionCounted
  | errorCounted | duplicateInMuted | ownSlotEnds | slotBegins | frameBuilt | cutOff | ownFrameEnds | reception =>
    exact h
  | pinChanged pin => cases pin <;> exact h
  | resetEnds cause straps =>
    exact State.rejudge_railsDown (railsDownBut_of_off fun r => by cases r <;> rfl)
  | resetBegins cause level =>
    have hr : (s.enterReset cause).railsDownBut (fun _ => false) :=
      State.rejudge_railsDown (railsDownBut_of_off fun r => by cases r <;> rfl)
    exact hr
  | loadFailed e r hl => exact railsDownBut_of_off (h.off (hp.unconfigured (.inl hl)).config)
  | loaded o image img hl =>
    have off := h.off (hp.unconfigured (.inl hl)).config
    rw [State.loadSucceeds_eq, State.enterListen_eq]
    refine settled o (State.rejudge_railsDown (railsDownBut_of_off fun r => ?_))
    simpa [State.withImage] using off r
  | demandSet o => exact State.judge_railsDown o _ h
  | pinTaken o pin => cases pin <;> exact State.judge_railsDown o _ h
  | zoneCleared o z => exact State.clear_railsDown o z h
  | resumed o =>
    rw [State.enterListen_eq]
    exact settled o h
  | restartAccepted o =>
    refine settled o (State.takeDownAll_railsDown _ _ fun r => ⟨(h r).1, fun _ _ _ => (nomatch ·)⟩)
  | reloaded straps hu =>
    exact State.rejudge_railsDown (railsDownBut_of_off (h.off (hp.unconfigured (.inr hu)).config))
  | reinitialised straps =>
    rw [State.setFlagIf_eq]
    exact State.rejudge_railsDown (railsDownBut_of_off fun r => by cases r <;> rfl)
  | dropoutEnds => exact State.queueRecord_railsDown _ h
  | faulted o r k => exact State.faultRail_railsDown o r k h
  | qualified o r c hc hs =>
    have hq := State.queueRecord_railsDown (s.makeRecord r .ramp .none (s.widthSince (s.rails.get r).since) false) h
    have hm : (s.queueRecord (s.makeRecord r .ramp .none (s.widthSince (s.rails.get r).since) false)).movable r :=
      State.movable_queueRecord _ (State.movable_of hc (by simp [hs]) (by simp [hs]))
    unfold State.qualify
    dsimp only
    split
    · exact settled o (hq.ofMoves hm (by simp [hs, RailState.down]) (State.MovesTo.enter _ hm)
        fun q e => State.putRail_others _ _ _ _ _ e)
    · exact settled o (hq.ofMoves hm (by simp [hs, RailState.down]) (State.MovesTo.enterDraining c hm)
        fun q e => State.enterDraining_others _ _ _ _ e)
  | discharged o r c hc =>
    unfold State.discharged
    dsimp only
    rw [State.queueRecord_eq]
    exact settled o (h.ofOne (r := r) hc rfl (fun _ => rfl) (fun q e => Four.get_set_other _ _ e)
      fun _ _ => .inl (by simp [State.enter_eq, Rail.entered]))
  | settleExpired o r c hc hs =>
    have hm : s.movable r := State.movable_of hc (by simp [hs]) (by simp [hs])
    refine settled o (h.ofMoves hm (by simp [hs, RailState.down]) (State.MovesTo.enterRamping c hm) fun q e => ?_)
    rw [State.enterRamping_eq]
    exact State.putRail_others _ _ _ _ _ e
  | drainForced o r c t hc hs =>
    have hm : s.movable r := State.movable_of hc (by simp [hs]) (by simp [hs])
    have hm := State.movable_queueRecord (s.makeRecord r .drainForced .none c.drainTimeout false) hm
    exact settled o ((State.queueRecord_railsDown _ h).ofMoves hm (by simp [hs, RailState.down])
      (State.MovesTo.enterFalling c .demand hm) fun q e => State.enterFalling_others _ _ _ _ _ e)
  | drainContinued r c t =>
    rw [State.queueRecord_eq]
    refine h.congr rfl (fun _ => rfl) fun q => ?_
    by_cases e : q = r
    · subst e
      simp [State.setRail]
    · simp [State.setRail, Four.get_set_other _ _ e]
  | missChecked o k => exact State.missCheck_keeps_of k h fun _ => State.judgeAll_railsDown o h
  | listenCounted o => exact State.countListen_keeps_of h (fun _ => h) fun _ _ _ => settled o h
  | listens o =>
    rw [State.enterListen_eq]
    exact settled o h
  | muted o k =>
    rw [State.enterMuted_eq]
    exact settled o h
  | coldStarted o => exact settled o h
  | timingTaken f t0 => exact State.takeTiming_keeps_of f t0 h (fun _ => h) fun _ => h
  | reportTaken o f => exact State.takeReport_keeps_of f fun _ => State.judgeAll_railsDown o h
  | zoneBytesTaken o f => exact State.takeZoneBytes_railsDown o f h

theorem State.sound_iff (s : State) : s.sound ↔ s.phaseSound ∧ s.railsDown := Iff.rfl

/-- Every event keeps a station sound. -/
theorem State.Event.sound {s t : State} (e : s.Event t) (h : s.sound) : t.sound := by
  obtain ⟨hp, hr⟩ := s.sound_iff.1 h
  exact t.sound_iff.2 ⟨e.phaseSound hp, (t.railsDown_iff).2 (e.railsDown hp ((s.railsDown_iff).1 hr))⟩

/-- Settles O59, event by event: an event that takes the shelf line's phase, the slot timer, the receiver or the peer
table from nothing needs a configuration, and a rail leaves OFF, FALLING and FAULT through its open gate alone. -/
theorem stepKeepsSound : Obligations.StepKeepsSound := by
  intro s t hs h
  exact step_keeps (P := State.sound) (fun _ _ e => e.sound) h hs

end Sys2Proof.Machine

/-! Proofs of the invariants: every running timer agrees with the configuration (`State.timersAgree`), through every
event. -/

namespace Sys2Proof.Machine
open Sys2Proof

/-- A whole number of sample periods later a deglitch timer still started at a sample instant (R60). -/
theorem sampleInstant_agrees {start next k : Nat} (h : start < next) (hm : (next - start) % 3200 = 0) :
    start < next + k * Config.samplePeriod + Config.samplePeriod ∧
    (next + k * Config.samplePeriod + Config.samplePeriod - start) % 3200 = 0 := by
  have hp : Config.samplePeriod = 3200 := rfl
  rw [hp]
  omega

theorem Rail.timersAgree.later {c : RailConfig} {next k : Nat} {x : Rail} {m : Monitor}
    (h : Rail.timersAgree c next x m) :
    Rail.timersAgree c (next + k * Config.samplePeriod + Config.samplePeriod) x m := by
  obtain ⟨h₁, h₂, h₃, h₄, h₅⟩ := h
  refine ⟨h₁, h₂, h₃, h₄, fun t ht => ?_⟩
  obtain ⟨hl, hs, hm⟩ := h₅ t ht
  exact ⟨hl, sampleInstant_agrees hs hm⟩

/-- The configuration of a load begins its rails with no timer running, as a station without one has them. -/
theorem State.withImage_idle {s : State} (img : Image) (hf : s.timersFit) (hr : s.railsDownBut (fun _ => false))
    (hc : s.startup.config = none) (r : RailIx) :
    ((s.withImage img).rails.get r).idle ((s.withImage img).monitor.rails.get r) := by
  obtain ⟨hs, h₁, h₂, h₃, h₄, -⟩ := (s.timersFit_iff.1 hf r).idle (hr.off hc r)
  simp only [State.withImage, Four.get_of]
  exact ⟨hs, h₁, h₂, h₃, h₄, rfl⟩

theorem State.beginLoad_timersAgree (s : State) (straps : BitVec 5) : (s.beginLoad straps).timersAgree :=
  State.timersAgree_of_unconfigured rfl

/-- Every event of a sound station keeps the rail timers as its configuration gives them. -/
theorem State.Event.timersAgree {s t : State} (e : s.Event t) (hs : s.sound) (hf : s.timersFit) (h : s.timersAgree) :
    t.timersAgree := by
  have settled {u : State} (o : Occasion) (hu : u.timersAgree) : (u.settle o).timersAgree :=
    (State.RailsEnter.settle u o).timersAgree hu
  have same {u : State} (hu : s.SameTimers u) (hc : u.startup = s.startup)
      (hn : u.monitor.nextSample = s.monitor.nextSample) : u.timersAgree := hu.timersAgree hc hn h
  cases e with
  | dequeued | clock | port | recordTaken | pinChanged | ownSlotEnds | slotBegins | frameBuilt | cutOff
  | collisionCounted | ownFrameEnds | silenceSet | reception | errorCounted | duplicateInMuted => exact h
  | loadFailed e r =>
    exact State.timersAgree_of_unconfigured rfl
  | resetEnds cause straps => exact State.beginLoad_timersAgree _ straps
  | resetBegins cause level => exact State.timersAgree_of_unconfigured rfl
  | loaded o image img hl =>
    have idle := State.withImage_idle img hf (s.railsDown_iff.1 hs.2) (hs.1.unconfigured (.inl hl)).config
    rw [State.loadSucceeds_eq]
    refine settled o ((s.withImage_sameTimers img).timersAgree ?_ ?_ fun r c _ => (idle r).timersAgree c _)
    · rw [State.enterListen_eq]
      rfl
    · rw [State.enterListen_eq]
      rfl
  | demandSet o | pinTaken o => exact State.judge_timersAgree o _ h
  | zoneCleared o z => exact (State.RailsEnter.clear s o z).timersAgree h
  | resumed o =>
    rw [State.enterListen_eq]
    exact settled o h
  | restartAccepted o => exact settled o ((State.RailsEnter.takeDownAll _ _ _).timersAgree h)
  | reloaded straps => exact State.beginLoad_timersAgree _ straps
  | reinitialised straps => exact State.beginLoad_timersAgree _ straps
  | sampled counts pg at_ k hn hk =>
    subst hk
    exact (State.storeSamples_sameTimers _ counts pg).timersAgree rfl rfl
      fun r c hc => (s.timersAgree_iff.1 h r c hc).later
  | counted r n => exact State.setMonitor_timersAgree (fun _ _ k => k) h
  | deglitchStarts r c hc hs hn =>
    refine State.setMonitor_timersAgree (fun d hd k => ?_) h
    obtain ⟨k₁, k₂, k₃, k₄, -⟩ := k
    rw [hc] at hd
    cases hd
    refine ⟨k₁, k₂, k₃, k₄, fun t ht => ?_⟩
    cases ht
    rw [hn]
    exact ⟨rfl, Nat.lt_add_of_pos_right (by decide), by rw [Nat.add_sub_cancel_left]; rfl⟩
  | dropoutEnds r c t =>
    refine (State.queueRecord_sameTimers _ _).timersAgree (by simp) (by simp)
      (State.setMonitor_timersAgree (fun d _ k => ?_) h)
    obtain ⟨k₁, k₂, k₃, k₄, -⟩ := k
    exact ⟨k₁, k₂, k₃, k₄, fun _ => (nomatch ·)⟩
  | faulted o r k => exact (State.RailsEnter.faultRail s o r k).timersAgree h
  | qualified o r c hc => exact (State.RailsEnter.qualify hc o).timersAgree h
  | discharged o r c hc => exact (State.RailsEnter.discharged hc o).timersAgree h
  | settleExpired o r c hc => exact settled o ((State.RailsEnter.enterRamping hc).timersAgree h)
  | drainForced o r c t hc => exact (State.RailsEnter.drainForced hc _ o).timersAgree h
  | drainContinued r c t => exact same (s.setDrainFrom_sameTimers r _ t) (by simp) (by simp)
  | missChecked o k => exact State.missCheck_keeps_of k h fun _ => State.judgeAll_timersAgree o h
  | listenCounted o => exact State.countListen_keeps_of h (fun _ => h) fun _ _ _ => settled o h
  | listens o =>
    rw [State.enterListen_eq]
    exact settled o h
  | muted o k =>
    rw [State.enterMuted_eq]
    exact settled o h
  | coldStarted o => exact settled o h
  | timingTaken f t0 => exact State.takeTiming_keeps_of f t0 h (fun _ => h) fun _ => h
  | reportTaken o f => exact State.takeReport_keeps_of f fun _ => State.judgeAll_timersAgree o h
  | zoneBytesTaken o f => exact (State.RailsEnter.takeZoneBytes s o f).timersAgree h

/-- Settles O55, event by event: the timers fit whatever the configuration is, and agree with it where the station is
sound, since a load then finds every rail in OFF. -/
theorem stepKeepsTimersFit : Obligations.StepKeepsTimersFit := by
  refine ⟨fun s t hs h => step_keeps (fun _ _ e => e.timersFit) h hs, fun s t hs h => ?_⟩
  refine (step_keeps (P := fun u => u.sound ∧ u.timersFit ∧ u.timersAgree) (fun u v e hu => ?_) h hs).2.2
  obtain ⟨h₁, h₂, h₃⟩ := hu
  exact ⟨e.sound h₁, e.timersFit h₂, e.timersAgree h₁ h₂ h₃⟩

end Sys2Proof.Machine

/-! Proofs about single events of the rail sequencer: the expiries of the rail timers, and demand that starts a rail. -/

namespace Sys2Proof.Machine
open Sys2Proof

/-! ### One rail at rest -/

/-- `State.atRest` for one rail. -/
def State.restsAt (s : State) (c : RailConfig) (r : RailIx) : Prop :=
  match (s.rails.get r).state with
  | .off => s.gateOpen c = false
  | .waiting => s.gateOpen c = true ∧ s.mayStart c r = false
  | .settling => s.gateOpen c = true ∧ s.allGood c r = true
  | .ramping => c.policy = .follow → s.allUp c r = true
  | .good => (c.policy = .follow → s.allUp c r = true) ∧ s.demanded c.zone = true
  | .draining =>
    (c.policy = .follow → s.allUp c r = true) ∧ s.held r = true
      ∧ (s.demanded c.zone = true → s.zoneNormal c.zone = false)
  | .falling => True
  | .fault => True

theorem State.atRest_iff_restsAt (s : State) :
    s.atRest ↔ ∀ (r : RailIx) (c : RailConfig), s.fittedConfig r = some c → s.restsAt c r := Iff.rfl

/-- The rails that name a rail as a prerequisite, and those it names, find it the same in both states. -/
structure RailState.Alike (x y : RailState) : Prop where
  good : y = .good ↔ x = .good
  up : y.up = x.up
  relies : y.relies = x.relies

theorem RailState.Alike.refl (x : RailState) : RailState.Alike x x := ⟨Iff.rfl, rfl, rfl⟩

theorem RailState.Alike.settling_ramping : RailState.Alike .settling .ramping := ⟨by simp, rfl, rfl⟩

/-- What the own rails show, as one reading of their states has it. -/
theorem State.localAll_congr {s t : State} (h : t.startup = s.startup) {ok : RailState → Bool}
    (hk : ∀ p, ok (t.rails.get p).state = ok (s.rails.get p).state) (c : RailConfig) :
    t.localAll c ok = s.localAll c ok := by
  have shown (p : RailIx) : ok (t.shownState p) = ok (s.shownState p) := by
    simp only [State.shownState, State.fittedConfig_congr h]
    cases s.fittedConfig p with
    | none => rfl
    | some d => exact hk p
  simp only [State.localAll, State.own_congr h, shown]

theorem State.allGood_congr {s t : State} (h : t.startup = s.startup) {r : RailIx}
    (hr : (t.rails.get r).remoteGood = (s.rails.get r).remoteGood)
    (hk : ∀ p, (t.rails.get p).state = .good ↔ (s.rails.get p).state = .good) (c : RailConfig) :
    t.allGood c r = s.allGood c r := by
  rw [State.allGood, State.allGood, hr, State.localAll_congr h fun p => decide_eq_decide.2 (hk p)]

theorem State.allUp_congr {s t : State} (h : t.startup = s.startup) {r : RailIx}
    (hr : (t.rails.get r).remoteUp = (s.rails.get r).remoteUp)
    (hk : ∀ p, (t.rails.get p).state.up = (s.rails.get p).state.up) (c : RailConfig) : t.allUp c r = s.allUp c r := by
  rw [State.allUp, State.allUp, hr, State.localAll_congr h hk]

namespace State.MovesTo
variable {s t : State}

theorem allGood_of (h : s.MovesTo t)
    (hk : ∀ p, (t.rails.get p).state = .good ↔ (s.rails.get p).state = .good) (c : RailConfig) (r : RailIx) :
    t.allGood c r = s.allGood c r := State.allGood_congr h.startup (h.kept r).1 hk c

theorem allUp_of (h : s.MovesTo t) (hk : ∀ p, (t.rails.get p).state.up = (s.rails.get p).state.up) (c : RailConfig)
    (r : RailIx) : t.allUp c r = s.allUp c r := State.allUp_congr h.startup (h.kept r).2.1 hk c

theorem held_of (h : s.MovesTo t) (hk : ∀ p, (t.rails.get p).state.relies = (s.rails.get p).state.relies)
    (r : RailIx) : t.held r = s.held r := by
  simp only [State.held, State.localHeld, (h.kept r).2.2.1, h.fitted, h.own, hk]

/-- A move of one rail that the other rails do not find changed leaves all at rest that were, once that rail is. -/
theorem atRest_of_alike (h : s.MovesTo t) {r : RailIx} (ho : ∀ q, q ≠ r → t.rails.get q = s.rails.get q)
    (ha : RailState.Alike (s.rails.get r).state (t.rails.get r).state) (hs : s.atRest)
    (hr : ∀ c, s.fittedConfig r = some c → t.restsAt c r) : t.atRest := by
  have alike (p : RailIx) : RailState.Alike (s.rails.get p).state (t.rails.get p).state := by
    by_cases e : p = r
    · rw [e]
      exact ha
    · rw [ho p e]
      exact .refl _
  have good := h.allGood_of fun p => (alike p).good
  have up := h.allUp_of fun p => (alike p).up
  have held := h.held_of fun p => (alike p).relies
  refine t.atRest_iff_restsAt.2 fun q c hc => ?_
  rw [h.fitted] at hc
  by_cases e : q = r
  · subst e
    exact hr c hc
  · have := s.atRest_iff_restsAt.1 hs q c hc
    unfold State.restsAt at this ⊢
    rw [ho q e]
    simpa only [h.gateOpen, h.mayStart (good c q), good, up, held, h.demanded, h.zoneNormal] using this

end State.MovesTo

theorem State.enable_of_fitted {s : State} {r : RailIx} {c : RailConfig} (hc : s.fittedConfig r = some c) :
    s.enable r = (s.rails.get r).state.enabled := by
  simp [State.enable, State.shownState, hc]

/-! ### Expiries (R12, R14, R21, R62) -/

/-- A fault that the rail's state accepts is taken (R28). -/
theorem State.faultRail_taken {s : State} {r : RailIx} {c : RailConfig} (hc : s.fittedConfig r = some c) {k : FaultKind}
    (ha : (s.rails.get r).state.accepts k = true) (o : Occasion) : State.FaultTaken o s c r k (s.faultRail o r k) := by
  have : s.faultRail o r k = (s.enterFault c r k).settle o := by
    unfold State.faultRail
    rw [hc]
    exact if_pos ha
  rw [this]
  exact State.enterFault_settle hc k o

theorem State.shelfTime_eq {s : State} {t : SlotTimer} (h : s.line.slotTimer = some t) :
    s.shelfSlot = t.slot ∧ s.shelfOffset = min 449 ((s.now - t.start) / 16) := by
  simp only [State.shelfSlot, State.shelfOffset, h, true_and]
  rfl

theorem execRampTimeout_some {s : State} {r : RailIx} {t : Timer} (h : (s.rails.get r).ramp = some t) (o : Occasion) :
    execRampTimeout o r s = .next (((s.after o).notBefore t.due).faultRail o r .rampTimeout) := by
  unfold execRampTimeout
  simp only [State.after, h]

theorem execRampTimeout_none {s : State} {r : RailIx} (h : (s.rails.get r).ramp = none) (o : Occasion) :
    execRampTimeout o r s = .next (s.after o) := by
  unfold execRampTimeout
  simp only [State.after, h]

theorem execDischargeTimeout_some {s : State} {r : RailIx} {t : Timer} (h : (s.rails.get r).discharge = some t)
    (o : Occasion) :
    execDischargeTimeout o r s = .next (((s.after o).notBefore t.due).faultRail o r .dischargeTimeout) := by
  unfold execDischargeTimeout
  simp only [State.after, h]

theorem execDischargeTimeout_none {s : State} {r : RailIx} (h : (s.rails.get r).discharge = none) (o : Occasion) :
    execDischargeTimeout o r s = .next (s.after o) := by
  unfold execDischargeTimeout
  simp only [State.after, h]

theorem execPgLost_some {s : State} {r : RailIx} {t : Timer} (h : (s.monitor.rails.get r).deglitch = some t)
    (o : Occasion) : execPgLost o r s = .next (((s.after o).notBefore t.due).faultRail o r .pgLost) := by
  unfold execPgLost
  simp only [State.after, h]

theorem execPgLost_none {s : State} {r : RailIx} (h : (s.monitor.rails.get r).deglitch = none) (o : Occasion) :
    execPgLost o r s = .next (s.after o) := by
  unfold execPgLost
  simp only [State.after, h]

/-- Settles O33: each of the three timers hands its fault to the sequencer, which accepts it in the timer's state. -/
theorem timerExpiryFaults : Obligations.TimerExpiryFaults := by
  refine ⟨fun s t h => s.shelfTime_eq h, fun o s r c hc => ⟨?_, ?_, ?_, ?_, ?_, ?_⟩⟩
  · intro t hs ht
    refine ⟨_, execRampTimeout_some ht o, State.faultRail_taken (s := (s.after o).notBefore t.due) hc ?_ o⟩
    simp only [State.notBefore, State.after, hs]
    rfl
  · intro t hs ht
    refine ⟨_, execDischargeTimeout_some ht o, State.faultRail_taken (s := (s.after o).notBefore t.due) hc ?_ o⟩
    simp only [State.notBefore, State.after, hs]
    rfl
  · intro t hs ht
    refine ⟨_, execPgLost_some ht o, State.faultRail_taken (s := (s.after o).notBefore t.due) hc ?_ o⟩
    rcases hs with hs | hs <;> simp only [State.notBefore, State.after, hs] <;> rfl
  · exact fun h => execRampTimeout_none h o
  · exact fun h => execDischargeTimeout_none h o
  · exact fun h => execPgLost_none h o

/-- A rail that goes on from SETTLING to RAMPING moves no other rail (R12). -/
theorem State.enterRamping_atRest {s : State} {r : RailIx} {c : RailConfig} (hc : s.fittedConfig r = some c)
    (hs : (s.rails.get r).state = .settling) (hu : s.allUp c r = true) (h : s.atRest) :
    (s.enterRamping c r).atRest := by
  have hm : s.MovesTo (s.enterRamping c r) :=
    State.MovesTo.enterRamping c (State.movable_of hc (by simp [hs]) (by simp [hs]))
  have ho (q : RailIx) (e : q ≠ r) : (s.enterRamping c r).rails.get q = s.rails.get q := by
    rw [State.enterRamping_eq]
    exact State.putRail_others _ _ _ _ _ e
  have hr : ((s.enterRamping c r).rails.get r).state = .ramping := by simp [State.enterRamping_eq, Rail.entered]
  refine hm.atRest_of_alike ho (by rw [hs, hr]; exact .settling_ramping) h fun d hd => ?_
  rw [hc] at hd
  cases hd
  have up : (s.enterRamping c r).allUp c r = s.allUp c r := hm.allUp_of (fun p => by
    by_cases e : p = r
    · rw [e, hr, hs]
      rfl
    · rw [ho p e]) c r
  unfold State.restsAt
  rw [hr]
  exact fun _ => up.trans hu

theorem execSettleTimerExpiry_none {s : State} {r : RailIx} (h : (s.rails.get r).settle = none) (o : Occasion) :
    execSettleTimerExpiry o r s = .next (s.after o) := by
  have h' : ((s.after o).rails.get r).settle = none := h
  unfold execSettleTimerExpiry
  dsimp only
  rw [h']
  cases (s.after o).fittedConfig r <;> rfl

theorem execSettleTimerExpiry_up {s : State} {r : RailIx} {c : RailConfig} {t : Timer} (hc : s.fittedConfig r = some c)
    (hs : (s.rails.get r).state = .settling) (ht : (s.rails.get r).settle = some t) (hu : s.allUp c r = true)
    (o : Occasion) :
    execSettleTimerExpiry o r s = .next ((((s.after o).notBefore t.due).enterRamping c r).settle o) := by
  have hc' : (s.after o).fittedConfig r = some c := hc
  have ht' : ((s.after o).rails.get r).settle = some t := ht
  unfold execSettleTimerExpiry
  simp only [hc', ht']
  exact if_pos ⟨hs, hu⟩

/-- Settles O32: the rail that enters RAMPING is at rest there, and no other rail finds it changed. -/
theorem settleExpiryStartsRamp : Obligations.SettleExpiryStartsRamp := by
  refine fun o s r c hc => ⟨fun h => ?_, fun t hrest hs ht hu => ?_⟩
  · exact execSettleTimerExpiry_none h o
  · have rest := State.enterRamping_atRest (s := (s.after o).notBefore t.due) hc hs hu hrest
    refine ⟨_, (execSettleTimerExpiry_up hc hs ht hu o).trans (by rw [State.settle_of_atRest rest]), ?_, ?_⟩
    · have hc' : (((s.after o).notBefore t.due).enterRamping c r).fittedConfig r = some c := hc
      rw [State.enable_of_fitted hc', State.enterRamping_eq]
      simp [Rail.entered, RailState.enabled]
    · rw [State.enterRamping_eq]
      rfl

/-! ### Demand (R8, R9, R12) -/

/-- Where one rail alone is fitted and rests after its move, that move is all that follows. -/
theorem State.settle_of_only {s u : State} {o : Occasion} {r : RailIx} (only : ∀ q, q ≠ r → s.fittedConfig q = none)
    (hr : s.react o r = some u) (hu : u.atRest) : s.settle o = u := by
  have move {w : State} (h : s.MovesOnce o w) : w = u := by
    obtain ⟨q, hq⟩ := h
    by_cases e : q = r
    · rw [e, hr] at hq
      exact (Option.some.inj hq).symm
    · simp [State.react, only q e] at hq
  have stays {w : State} (h : Relation.ReflTransGen (State.MovesOnce o) u w) : w = u := by
    rcases h.cases_head with e | ⟨v, ⟨q, hq⟩, -⟩
    · exact e.symm
    · rw [(u.atRest_iff o).1 hu q] at hq
      cases hq
  rcases (s.settle_reaches o).cases_head with e | ⟨w, hw, h⟩
  · have : s.atRest := by
      rw [e]
      exact s.settle_atRest o
    rw [(s.atRest_iff o).1 this r] at hr
    cases hr
  · rw [move hw] at h
    exact stays h

/-- A rail without prerequisites finds them all good and up where its view says so. -/
theorem State.allGood_of_free {s : State} {c : RailConfig} {r : RailIx} (hp : c.prerequisites = [])
    (h : (s.rails.get r).remoteGood = true) : s.allGood c r = true := by
  simp [State.allGood, State.localAll, hp, h]

theorem State.allUp_of_free {s : State} {c : RailConfig} {r : RailIx} (hp : c.prerequisites = [])
    (h : (s.rails.get r).remoteUp = true) : s.allUp c r = true := by
  simp [State.allUp, State.localAll, hp, h]

theorem State.mayStart_of_free {s : State} {c : RailConfig} {r : RailIx} (hp : c.prerequisites = [])
    (h : (s.rails.get r).remoteGood = true) (hd : s.shelfDemand c.zone = true) : s.mayStart c r = true := by
  simp [State.mayStart, State.allGood_of_free hp h, State.remoteAll, hp, hd]

/-- The one fitted rail, in OFF, its gate open and without prerequisites, starts and moves no further. -/
theorem State.settle_starts {s : State} {o : Occasion} {r : RailIx} {c : RailConfig} (hc : s.fittedConfig r = some c)
    (only : ∀ q, q ≠ r → s.fittedConfig q = none) (hp : c.prerequisites = []) (hs : (s.rails.get r).state = .off)
    (hg : (s.rails.get r).remoteGood = true) (hu : (s.rails.get r).remoteUp = true) (gate : s.gateOpen c = true)
    (hd : s.shelfDemand c.zone = true) : s.settle o = s.enterSettling c r := by
  have hr : s.react o r = some (s.enterWaiting c r) := by simp [State.react, hc, hs, gate]
  have may : (s.enter r .waiting).mayStart c r = true :=
    State.mayStart_of_free hp (by simpa using hg) hd
  rw [State.enterWaiting_eq, if_pos may] at hr
  have hm : s.MovesTo (s.enterSettling c r) :=
    State.MovesTo.enterSettling c (State.movable_of hc (by simp [hs]) (by simp [hs]))
  obtain ⟨kg, ku, -⟩ := hm.kept r
  refine State.settle_of_only only hr (State.atRest_iff_restsAt _ |>.2 fun q d hq => ?_)
  rw [hm.fitted] at hq
  obtain rfl : q = r := by
    by_contra e
    rw [only q e] at hq
    cases hq
  rw [hc] at hq
  cases hq
  unfold State.restsAt
  by_cases hz : c.settleDelay = 0
  · have : ((s.enterSettling c q).rails.get q).state = .ramping := by simp [State.enterSettling_eq, hz, Rail.entered]
    rw [this]
    exact fun _ => State.allUp_of_free hp (ku.trans hu)
  · have : ((s.enterSettling c q).rails.get q).state = .settling := by simp [State.enterSettling_eq, hz, Rail.entered]
    rw [this]
    exact ⟨(hm.gateOpen c).trans gate, State.allGood_of_free hp (kg.trans hg)⟩

/-- SET_DEMAND on an ACTIVE station with no restart pending takes the mask and judges demand (R189). -/
theorem execSetDemand_active {s : State} (o : Occasion) (mask : Byte) (ht : s.port.transaction = .command)
    (hr : s.startup.restartPending = false) (hp : s.line.phase = .active) :
    execSetDemand o mask s =
      .next (((({ s.after o with port := { s.port with portDemand := mask } } : State).workOutDemand).judge o
        .demand).answer .ok []) := by
  have hn : refusal (s.after o) true configuredPhase (anyArgument (s.after o)) = none := by
    simp [refusal, State.after, hr, hp, configuredPhase, anyArgument]
  unfold execSetDemand portCommand
  simp only [hn]
  exact if_pos ht

/-- Own demand holds the port demand mask while a configuration is loaded (R75). -/
theorem State.ownDemandNow_of_portDemand {s : State} {img : Image} (hi : s.startup.config = some img) {z : ZoneIx}
    (h : s.port.portDemand.getLsbD z.toNat = true) : s.ownDemandNow.getLsbD z.toNat = true := by
  simp [State.ownDemandNow, hi, h]

/-- A station with a fitted rail has a configuration. -/
theorem State.config_of_fitted {s : State} {r : RailIx} {c : RailConfig} (h : s.fittedConfig r = some c) :
    ∃ img, s.startup.config = some img := by
  cases hc : s.startup.config with
  | none =>
    rw [State.fittedConfig_none hc] at h
    cases h
  | some img => exact ⟨img, rfl⟩

/-- SET_DEMAND's own part: the mask is taken, and own demand and shelf demand are worked out (R75, R76). -/
def State.withDemand (s : State) (mask : Byte) : State :=
  State.takeView (State.workOutDemand { s with port := { s.port with portDemand := mask } }) .demand

theorem State.withDemand_shelfDemand {s : State} {img : Image} {mask : Byte} {z : ZoneIx}
    (hi : s.startup.config = some img) (h : mask.getLsbD z.toNat = true) :
    (s.withDemand mask).shelfDemand z = true := by
  have own : (s.withDemand mask).zones.ownDemand.getLsbD z.toNat = true :=
    State.ownDemandNow_of_portDemand (s := { s with port := { s.port with portDemand := mask } }) hi h
  simp [State.shelfDemand, names, own]

theorem State.withDemand_gateOpen {s : State} {img : Image} {mask : Byte} {c : RailConfig}
    (hi : s.startup.config = some img) (hp : s.line.phase = .active) (hr : s.startup.restartPending = false)
    (hz : s.zoneNormal c.zone = true) (h : mask.getLsbD c.zone.toNat = true) :
    (s.withDemand mask).gateOpen c = true := by
  have hp' : (s.withDemand mask).line.phase = .active := hp
  have hr' : (s.withDemand mask).startup.restartPending = false := hr
  have hz' : (s.withDemand mask).zoneNormal c.zone = true :=
    ((State.takeView_sameButView _ _).condition c.zone).trans hz
  have hd : (s.withDemand mask).demanded c.zone = (s.withDemand mask).shelfDemand c.zone := by
    simp only [State.withDemand, State.takeView, State.demanded, Eight.get_of]
    rfl
  simp [State.gateOpen, hp', hr', hd, State.withDemand_shelfDemand hi h, hz']

/-- Settles O17: the judgement of demand opens the gate of the one rail there is, and nothing holds it back. -/
theorem demandStartsFreeRail : Obligations.DemandStartsFreeRail := by
  intro o mask s r c ht hr hp hc only hq hs hg hu hz hm
  obtain ⟨img, hi⟩ := State.config_of_fitted hc
  have hrail : ((s.after o).withDemand mask).rails.get r = s.rails.get r := rfl
  have hfit : ((s.after o).withDemand mask).fittedConfig r = some c := hc
  have hnow : ((s.after o).withDemand mask).now = s.now + o.wait := rfl
  have settled : ((s.after o).withDemand mask).settle o = ((s.after o).withDemand mask).enterSettling c r :=
    State.settle_starts hfit only hq hs hg hu (State.withDemand_gateOpen hi hp hr hz hm)
      (State.withDemand_shelfDemand hi hm)
  have run : execSetDemand o mask s =
      .next ((((s.after o).withDemand mask).enterSettling c r).answer .ok []) := by
    rw [← settled]
    exact execSetDemand_active o mask ht hr hp
  refine ⟨_, run, ?_, fun hd => ?_, fun hd => ?_⟩
  · have moves := State.MovesTo.enterSettling c (State.movable_of hfit (by simp [hrail, hs]) (by simp [hrail, hs]))
    have fitted : ((((s.after o).withDemand mask).enterSettling c r).answer .ok []).fittedConfig r = some c :=
      (State.fittedConfig_congr moves.startup r).trans hfit
    rw [State.enable_of_fitted fitted, State.enterSettling_eq]
    by_cases hd : c.settleDelay = 0 <;> simp [State.answer, Rail.entered, RailState.enabled, hd]
  · rw [State.enterSettling_eq, if_neg hd]
    simp [State.answer, Rail.entered, hrail, hnow]
  · rw [State.enterSettling_eq, if_pos hd]
    simp [State.answer, Rail.entered, hrail, hnow]

end Sys2Proof.Machine

/-! Proofs about the conditions of Table 10 and about the samples that end a ramp or a fall. -/

namespace Sys2Proof.Machine
open Sys2Proof

/-! ### The conditions of Table 10 -/

theorem State.gateOpen_iff (s : State) (c : RailConfig) :
    s.gateOpen c = true ↔ s.line.phase = .active ∧ s.startup.restartPending = false ∧
      (s.zones.entries.get c.zone).demanded = true ∧ (s.zones.entries.get c.zone).condition = .normal := by
  simp [State.gateOpen, State.demanded, State.zoneNormal, and_assoc]

theorem State.localAll_iff (s : State) (c : RailConfig) (ok : RailState → Bool) :
    s.localAll c ok = true ↔ ∀ p ∈ c.prerequisites, p.station = s.own → ok (s.shownState p.rail) = true := by
  simp [State.localAll, or_iff_not_imp_left]

/-- A rail is held by a peer or by an own rail that relies on it (R37). -/
theorem State.held_iff (s : State) (r : RailIx) :
    s.held r = true ↔ (s.rails.get r).peerHeld = true ∨ ∃ q d, s.fittedConfig q = some d ∧
      (s.rails.get q).state.relies = true ∧ (⟨s.own, r⟩ : Ref) ∈ d.prerequisites := by
  have names (d : RailConfig) : d.prerequisites.any (fun p => p.station == s.own && p.rail == r) = true ↔
      (⟨s.own, r⟩ : Ref) ∈ d.prerequisites := by
    simp only [List.any_eq_true, Bool.and_eq_true, beq_iff_eq]
    refine ⟨fun ⟨p, hp, hs, hr⟩ => ?_, fun hp => ⟨_, hp, rfl, rfl⟩⟩
    rw [← hs, ← hr]
    exact hp
  rw [State.held, Bool.or_eq_true, State.localHeld, List.any_eq_true]
  refine or_congr Iff.rfl (exists_congr fun q => ?_)
  cases s.fittedConfig q with
  | none => simp
  | some d => simp only [Bool.and_eq_true, names, RailIx.mem_all, true_and, Option.some.injEq, exists_eq_left']

theorem State.shelfDemand_iff (s : State) (z : ZoneIx) :
    s.shelfDemand z = true ↔ s.zones.ownDemand.getLsbD z.toNat = true ∨
      ∃ n e, s.peers[n]? = some e ∧ n ≠ s.own ∧ e.presence = .present ∧ e.demand.getLsbD z.toNat = true := by
  rw [State.shelfDemand, Bool.or_eq_true, zipIdx_any_iff]
  simp [names, and_assoc]

/-- What is GOOD is up (R4). -/
theorem RailState.up_of_good {st : RailState} (h : decide (st = .good) = true) : st.up = true := by
  rw [of_decide_eq_true h]
  rfl

theorem State.remoteAll_up_of_good {s : State} {c : RailConfig}
    (h : s.remoteAll c (fun st => decide (st = .good)) = true) : s.remoteAll c RailState.up = true := by
  rw [State.remoteAll_iff] at h ⊢
  intro p hp hs
  obtain ⟨e, he, hpr, hg⟩ := h p hp hs
  exact ⟨e, he, hpr, RailState.up_of_good hg⟩

theorem State.localAll_up_of_good {s : State} {c : RailConfig}
    (h : s.localAll c (fun st => decide (st = .good)) = true) : s.localAll c RailState.up = true := by
  rw [State.localAll_iff] at h ⊢
  exact fun p hp hs => RailState.up_of_good (h p hp hs)

/-- Where the view is fresh, prerequisites that are all GOOD are all up (R5). -/
theorem State.allUp_of_allGood {s : State} (hv : s.viewFresh) {r : RailIx} {c : RailConfig}
    (hc : s.fittedConfig r = some c) (h : s.allGood c r = true) : s.allUp c r = true := by
  obtain ⟨-, -, -, hv, -⟩ := hv
  obtain ⟨hg, hu⟩ := hv r c hc
  rw [State.allGood, Bool.and_eq_true, hg] at h
  rw [State.allUp, Bool.and_eq_true, hu]
  exact ⟨State.remoteAll_up_of_good h.1, State.localAll_up_of_good h.2⟩

/-- Where the view is fresh, a rail with all prerequisites GOOD in a demanded zone may start (R8, R9). -/
theorem State.mayStart_of_allGood {s : State} (hv : s.viewFresh) {r : RailIx} {c : RailConfig}
    (hc : s.fittedConfig r = some c) (h : s.allGood c r = true) (hd : s.demanded c.zone = true) :
    s.mayStart c r = true := by
  obtain ⟨-, hz, -, hv, -⟩ := hv
  have hg := (hv r c hc).1
  have hr : (s.rails.get r).remoteGood = true := by
    rw [State.allGood, Bool.and_eq_true] at h
    exact h.1
  simp [State.mayStart, h, ← hg, hr, ← hz, hd]

/-! ### A sample, by the state of its rail -/

theorem State.overdue_eq_false {s : State} {x : Option Timer}
    (h : ∀ t, x = some t → s.now ≤ t.start + t.length * 1600) : s.overdue x = false := by
  cases x with
  | none => rfl
  | some t => exact decide_eq_false (Nat.not_lt.2 (h t rfl))

theorem State.overdue_some {s : State} {t : Timer} (h : t.start + t.length * 1600 < s.now) :
    s.overdue (some t) = true := decide_eq_true h

theorem State.actOnSample_ramping {s : State} {r : RailIx} {c : RailConfig} (hc : s.fittedConfig r = some c)
    (hs : (s.rails.get r).state = .ramping) (o : Occasion) :
    s.actOnSample o r =
      if s.overdue (s.rails.get r).ramp then s.faultRail o r .rampTimeout
      else if classify c (s.monitor.rails.get r).lastSample.toNat = .inWindow ∧
        (c.pgUsed = false ∨ (s.monitor.rails.get r).pg = true) then s.qualify o c r else s := by
  simp only [State.actOnSample, hc, hs]

theorem State.actOnSample_falling {s : State} {r : RailIx} {c : RailConfig} (hc : s.fittedConfig r = some c)
    (hs : (s.rails.get r).state = .falling) (o : Occasion) :
    s.actOnSample o r =
      if s.overdue (s.rails.get r).discharge then s.faultRail o r .dischargeTimeout
      else if classify c (s.monitor.rails.get r).lastSample.toNat = .below then s.discharged o r else s := by
  simp only [State.actOnSample, hc, hs]

theorem State.actOnSample_fault {s : State} {r : RailIx} {c : RailConfig} (hc : s.fittedConfig r = some c)
    (hs : (s.rails.get r).state = .fault) (o : Occasion) : s.actOnSample o r = s := by
  simp only [State.actOnSample, hc, hs]

theorem State.actOnSample_unfitted {s : State} {r : RailIx} (hc : s.fittedConfig r = none) (o : Occasion) :
    s.actOnSample o r = s := by
  simp only [State.actOnSample, hc]

/-! ### Records and rails apart -/

/-- The queue and a rail's records are put in either order. -/
theorem State.queueRecord_putRail (s : State) (r : RailIx) (y : Rail) (m : Monitor) (x : TimingRecord) :
    (s.putRail r y m).queueRecord x = (s.queueRecord x).putRail r y m := by
  obtain ⟨hr, hp⟩ := State.queueRecord_congr (s := s) (t := s.putRail r y m) rfl rfl x
  rw [State.queueRecord_eq, hr, hp, State.queueRecord_eq s x]
  rfl

theorem State.putRail_putRail (s : State) (r : RailIx) (x y : Rail) (m n : Monitor) :
    (s.putRail r x m).putRail r y n = s.putRail r y n := by
  simp [State.putRail, State.setRail, State.setMonitor]

/-- A rail just in DRAINING that nothing holds falls with a record of width 0 (R40, R41). -/
theorem State.draining_release (s : State) (c : RailConfig) (r : RailIx) :
    (s.draining c r).release c r =
      (s.queueRecord (s.makeRecord r .drain .none 0 false)).putRail r
        { (s.rails.get r).entered .falling s.now with
          fallCause := .demand, discharge := some { start := s.now, length := c.dischargeTimeout }
          drainFrom := s.now }
        (s.monitor.rails.get r).restarted := by
  have w : (s.draining c r).makeRecord r .drain .none
      ((s.draining c r).widthSince ((s.draining c r).rails.get r).drainFrom) false =
      s.makeRecord r .drain .none 0 false := by
    simp [State.makeRecord, State.widthSince, State.draining, State.putRail, State.setRail, State.setMonitor]
  rw [State.release, w, State.draining, State.queueRecord_putRail, State.enterFalling_eq, State.putRail_putRail]
  congr 1 <;> simp [State.putRail, State.setRail, State.setMonitor, Rail.entered, Monitor.restarted]

/-- A rail that comes up, or is up, is held in DRAINING by what held it. -/
theorem State.draining_held {s : State} {c : RailConfig} {r : RailIx} (hc : s.fittedConfig r = some c)
    (hs : (s.rails.get r).state = .ramping ∨ (s.rails.get r).state = .good) (q : RailIx) :
    (s.draining c r).held q = s.held q := by
  have hm : s.movable r :=
    State.movable_of hc (by rcases hs with e | e <;> simp [e]) (by rcases hs with e | e <;> simp [e])
  have moves : s.MovesTo (s.draining c r) := State.MovesTo.putRail hm ⟨rfl, rfl, rfl, rfl⟩ ⟨rfl, rfl⟩
  refine moves.held_of (fun p => ?_) q
  by_cases e : p = r
  · have : ((s.draining c r).rails.get r).state = .draining := by simp [State.draining, Rail.entered]
    rw [e, this]
    rcases hs with k | k <;> rw [k] <;> rfl
  · rw [State.draining, State.putRail_others _ _ _ _ _ e]

/-! ### The sample that ends a ramp (R13) -/

/-- A LATCH rail that is GOOD in a demanded zone moves on for nothing. -/
theorem State.react_good_latch {s : State} {r : RailIx} {c : RailConfig} (hc : s.fittedConfig r = some c)
    (hs : (s.rails.get r).state = .good) (hp : c.policy = .latch) (hd : s.demanded c.zone = true) (o : Occasion) :
    s.react o r = none := by
  simp only [State.react, hc, hs]
  refine List.findSome?_eq_none_iff.2 fun v _ => ?_
  cases v <;> simp [State.goodReaction, State.followLoss, hp, hd]

/-- Nor does a LATCH rail that drains in a zone without demand, held by a peer. -/
theorem State.react_draining_latch {s : State} {r : RailIx} {c : RailConfig} (hc : s.fittedConfig r = some c)
    (hs : (s.rails.get r).state = .draining) (hp : c.policy = .latch) (hd : s.demanded c.zone = false)
    (hh : (s.rails.get r).peerHeld = true) (o : Occasion) : s.react o r = none := by
  simp only [State.react, hc, hs]
  refine List.findSome?_eq_none_iff.2 fun v _ => ?_
  cases v <;> simp [State.drainingReaction, State.followLoss, State.held, hp, hd, hh]

theorem State.settle_good_latch {s : State} {r : RailIx} {c : RailConfig} (hc : s.fittedConfig r = some c)
    (hs : (s.rails.get r).state = .good) (hp : c.policy = .latch) (hd : s.demanded c.zone = true) (o : Occasion) :
    (s.settle o).rails.get r = s.rails.get r :=
  (State.settle_sameRail (fun o u hm hr =>
    State.react_good_latch (by rw [hm.fitted]; exact hc) (by rw [hr.1]; exact hs) hp (by rw [hm.demanded]; exact hd) o)
    o).1

theorem State.settle_draining_latch {s : State} {r : RailIx} {c : RailConfig} (hc : s.fittedConfig r = some c)
    (hs : (s.rails.get r).state = .draining) (hp : c.policy = .latch) (hd : s.demanded c.zone = false)
    (hh : (s.rails.get r).peerHeld = true) (o : Occasion) : (s.settle o).rails.get r = s.rails.get r :=
  (State.settle_sameRail (fun o u hm hr =>
    State.react_draining_latch (by rw [hm.fitted]; exact hc) (by rw [hr.1]; exact hs) hp
      (by rw [hm.demanded]; exact hd) (by rw [hr.1]; exact hh) o) o).1

/-- The RAMP record of rail `r` that qualifies now. -/
def State.rampRecord (s : State) (r : RailIx) : TimingRecord :=
  s.makeRecord r .ramp .none (s.widthSince (s.rails.get r).since) false

/-- What the record leaves of a rail that qualifies. -/
theorem State.rampRecord_draining {s : State} {r : RailIx} {c : RailConfig} (hc : s.fittedConfig r = some c)
    (hs : (s.rails.get r).state = .ramping) :
    ((s.queueRecord (s.rampRecord r)).draining c r).held r = s.held r := by
  have moves := State.MovesTo.queueRecord s (s.rampRecord r)
  rw [State.draining_held ((moves.fitted r).trans hc) (.inl (by simpa using hs))]
  exact moves.held_of (fun p => by rw [State.queueRecord_rails]) r

theorem State.qualify_demanded {s : State} {c : RailConfig} (hd : s.demanded c.zone = true) (o : Occasion)
    (r : RailIx) :
    s.qualify o c r =
      ((s.queueRecord (s.rampRecord r)).putRail r ((s.rails.get r).entered .good s.now)
        (s.monitor.rails.get r).restarted).settle o := by
  have hd' : (s.queueRecord (s.rampRecord r)).demanded c.zone = true := by simpa [State.demanded] using hd
  have : s.qualify o c r = ((s.queueRecord (s.rampRecord r)).enter r .good).settle o :=
    congrArg (State.settle · o) (if_pos hd')
  rw [this, State.enter_eq, State.queueRecord_rails, State.queueRecord_now, State.queueRecord_monitor]

theorem State.qualify_undemanded {s : State} {c : RailConfig} (hd : s.demanded c.zone = false) (o : Occasion)
    (r : RailIx) : s.qualify o c r = ((s.queueRecord (s.rampRecord r)).enterDraining c r).settle o := by
  have hd' : ¬ (s.queueRecord (s.rampRecord r)).demanded c.zone = true := by
    rw [(State.MovesTo.queueRecord s (s.rampRecord r)).demanded, hd]
    exact Bool.false_ne_true
  exact congrArg (State.settle · o) (if_neg hd')

theorem State.qualify_held {s : State} {r : RailIx} {c : RailConfig} (hc : s.fittedConfig r = some c)
    (hs : (s.rails.get r).state = .ramping) (hd : s.demanded c.zone = false) (hh : s.held r = true) (o : Occasion) :
    s.qualify o c r =
      ((s.queueRecord (s.rampRecord r)).putRail r
        { (s.rails.get r).entered .draining s.now with
          drain := if c.drainTimeout = 0 then none else some { start := s.now, length := c.drainTimeout }
          drainFrom := s.now }
        (s.monitor.rails.get r).restarted).settle o := by
  rw [State.qualify_undemanded hd, State.enterDraining_eq, State.rampRecord_draining hc hs, if_pos hh, State.draining,
    State.queueRecord_rails, State.queueRecord_now, State.queueRecord_monitor]

theorem State.qualify_released {s : State} {r : RailIx} {c : RailConfig} (hc : s.fittedConfig r = some c)
    (hs : (s.rails.get r).state = .ramping) (hd : s.demanded c.zone = false) (hh : s.held r = false) (o : Occasion) :
    s.qualify o c r =
      (((s.queueRecord (s.rampRecord r)).queueRecord (s.makeRecord r .drain .none 0 false)).putRail r
        { (s.rails.get r).entered .falling s.now with
          fallCause := .demand, discharge := some { start := s.now, length := c.dischargeTimeout }
          drainFrom := s.now }
        (s.monitor.rails.get r).restarted).settle o := by
  have record : (s.queueRecord (s.rampRecord r)).makeRecord r .drain .none 0 false =
      s.makeRecord r .drain .none 0 false := by simp [State.makeRecord]
  rw [State.qualify_undemanded hd, State.enterDraining_eq, State.rampRecord_draining hc hs, if_neg (by simp [hh]),
    State.draining_release, State.queueRecord_rails, State.queueRecord_now, State.queueRecord_monitor, record]

/-- Settles O28: the record is queued, the rail enters GOOD, DRAINING or FALLING, and settling does the rest; no move of
another rail is a condition of a LATCH rail that a peer holds. -/
theorem qualifyingSampleEndsRamp : Obligations.QualifyingSampleEndsRamp := by
  refine ⟨fun o s r c t hc hs ht hlate => ?_, fun o s r c hc hs hramp hcls hpg => ?_⟩
  · rw [State.actOnSample_ramping hc hs, ht, if_pos (State.overdue_some hlate)]
    exact State.faultRail_taken hc (by rw [hs]; rfl) o
  have qualifies : s.actOnSample o r = s.qualify o c r := by
    have pg : c.pgUsed = false ∨ (s.monitor.rails.get r).pg = true := by
      cases hu : c.pgUsed
      · exact .inl rfl
      · exact .inr (hpg hu)
    rw [State.actOnSample_ramping hc hs, State.overdue_eq_false hramp, if_neg Bool.false_ne_true, if_pos ⟨hcls, pg⟩]
  have moves := State.MovesTo.queueRecord s (s.rampRecord r)
  have fitted (y : Rail) (m : Monitor) : ((s.queueRecord (s.rampRecord r)).putRail r y m).fittedConfig r = some c :=
    (moves.fitted r).trans hc
  have demanded (y : Rail) (m : Monitor) :
      ((s.queueRecord (s.rampRecord r)).putRail r y m).demanded c.zone = s.demanded c.zone := moves.demanded c.zone
  rw [qualifies]
  refine ⟨fun hd => ?_, fun hd hh => ?_, fun hd hh => ?_⟩
  · rw [State.qualify_demanded hd]
    refine ⟨State.settle_settlesTo _ o, fun hp => ?_⟩
    rw [State.settle_good_latch (fitted _ _) (by simp [Rail.entered]) hp ((demanded _ _).trans hd), State.putRail_rails,
      Four.get_set_same]
    rfl
  · rw [State.qualify_held hc hs hd hh]
    refine ⟨State.settle_settlesTo _ o, fun hp hpeer => ?_⟩
    rw [State.settle_draining_latch (fitted _ _) (by simp [Rail.entered]) hp ((demanded _ _).trans hd)
      (by simpa [Rail.entered] using hpeer), State.putRail_rails, Four.get_set_same]
    rfl
  · rw [State.qualify_released hc hs hd hh]
    exact State.settle_settlesTo _ o

end Sys2Proof.Machine

/-! Proofs about the sample that ends a fall: the rail it takes to OFF, and the moves that follow where the station was
at rest. -/

namespace Sys2Proof.Machine
open Sys2Proof

/-! ### A rail in OFF whose gate is open, the others at rest -/

/-- What `State.atRest` says of a rail, but that a DRAINING one is held. -/
def State.restsButHeld (s : State) (c : RailConfig) (r : RailIx) : Prop :=
  match (s.rails.get r).state with
  | .off => s.gateOpen c = false
  | .waiting => s.gateOpen c = true ∧ s.mayStart c r = false
  | .settling => s.gateOpen c = true ∧ s.allGood c r = true
  | .ramping => c.policy = .follow → s.allUp c r = true
  | .good => (c.policy = .follow → s.allUp c r = true) ∧ s.demanded c.zone = true
  | .draining => (c.policy = .follow → s.allUp c r = true) ∧ (s.demanded c.zone = true → s.zoneNormal c.zone = false)
  | .falling => True
  | .fault => True

theorem State.restsAt.butHeld {s : State} {c : RailConfig} {r : RailIx} (h : s.restsAt c r) : s.restsButHeld c r := by
  unfold State.restsAt at h
  unfold State.restsButHeld
  cases hs : (s.rails.get r).state <;> simp only [hs] at h ⊢
  case draining => exact ⟨h.1, h.2.2⟩
  all_goals exact h

/-- Of what Table 10 gives a rail that rests but for its held status, only the release from DRAINING is left. -/
theorem State.Reaction.released_of_restsButHeld {s u : State} {r : RailIx} {c : RailConfig} (h : s.Reaction r c u)
    (hr : s.restsButHeld c r) : (s.rails.get r).state = .draining ∧ s.held r = false ∧ u = s.release c r := by
  unfold State.restsButHeld at hr
  cases h with
  | opens hs | waits hs | drains hs | starts hs | returns hs => simp_all
  | shuts hs hg => rcases hs with hs | hs <;> simp_all
  | loses hs hp hu => rcases hs with hs | hs | hs <;> simp_all
  | released hs hh => exact ⟨hs, hh, rfl⟩

/-- What the moves from `v` have come to in `w`, where rail `r` alone has something to do: it goes on as its
prerequisites give, and another rail falls at most, from DRAINING, where no rail but `r` relied on it. -/
structure State.GoesOn (v : State) (r : RailIx) (c : RailConfig) (w : State) : Prop where
  moves : v.MovesTo w
  others : ∀ q, q ≠ r → w.rails.get q = v.rails.get q ∨
    (v.rails.get q).state = .draining ∧ (w.rails.get q).state = .falling ∧
    ∀ p d, p ≠ r → v.fittedConfig p = some d → (v.rails.get p).state.relies = true → ⟨v.own, q⟩ ∉ d.prerequisites
  rail : (w.rails.get r).state = .off ∨ (w.rails.get r).state = .waiting ∨
    v.allGood c r = true ∧ (w.rails.get r).state = if c.settleDelay = 0 then .ramping else .settling

namespace State.GoesOn
variable {v w : State} {r : RailIx} {c : RailConfig}

theorem not_good (h : v.GoesOn r c w) : (w.rails.get r).state ≠ .good := by
  rcases h.rail with e | e | ⟨-, e⟩ <;> rw [e]
  · simp
  · simp
  · split <;> simp

/-- No rail becomes GOOD or leaves it. -/
theorem good_iff (h : v.GoesOn r c w) (hr : (v.rails.get r).state = .off) (p : RailIx) :
    (w.rails.get p).state = .good ↔ (v.rails.get p).state = .good := by
  by_cases e : p = r
  · rw [e, hr]
    simp [h.not_good]
  · rcases h.others p e with k | ⟨k₁, k₂, -⟩
    · rw [k]
    · simp [k₁, k₂]

theorem allGood (h : v.GoesOn r c w) (hr : (v.rails.get r).state = .off) (d : RailConfig) (q : RailIx) :
    w.allGood d q = v.allGood d q := h.moves.allGood_of (h.good_iff hr) d q

theorem mayStart (h : v.GoesOn r c w) (hr : (v.rails.get r).state = .off) (d : RailConfig) (q : RailIx) :
    w.mayStart d q = v.mayStart d q := h.moves.mayStart (h.allGood hr d q)

/-- Every other rail relies on its prerequisites as it did. -/
theorem relies (h : v.GoesOn r c w) {p : RailIx} (e : p ≠ r) :
    (w.rails.get p).state.relies = (v.rails.get p).state.relies := by
  rcases h.others p e with k | ⟨k₁, k₂, -⟩
  · rw [k]
  · rw [k₁, k₂]
    rfl

/-- A rail that relies on its prerequisites finds them up as they were: none that it names has fallen. -/
theorem allUp (h : v.GoesOn r c w) (hr : (v.rails.get r).state = .off) {q : RailIx} (e : q ≠ r) {d : RailConfig}
    (hd : v.fittedConfig q = some d) (hq : (v.rails.get q).state.relies = true) (hu : v.allUp d q = true) :
    w.allUp d q = true := by
  rw [State.allUp, Bool.and_eq_true, State.localAll_iff] at hu ⊢
  obtain ⟨hremote, hlocal⟩ := hu
  refine ⟨by rw [(h.moves.kept q).2.1]; exact hremote, fun p hp hs => ?_⟩
  rw [h.moves.own] at hs
  have up := hlocal p hp hs
  unfold State.shownState at up ⊢
  rw [h.moves.fitted]
  cases hf : v.fittedConfig p.rail with
  | none => simp [hf, RailState.up] at up
  | some f =>
    rw [hf] at up
    by_cases k : p.rail = r
    · simp [k, hr, RailState.up] at up
    · rcases h.others p.rail k with k | ⟨-, -, k⟩
      · simpa [k] using up
      · refine absurd ?_ (k q d e hd hq)
        rw [← hs]
        exact hp

/-- Every other rail has at most a release from DRAINING to make. -/
theorem restsButHeld (h : v.GoesOn r c w) (hr : (v.rails.get r).state = .off) {q : RailIx} (e : q ≠ r) {d : RailConfig}
    (hd : v.fittedConfig q = some d) (hq : v.restsButHeld d q) : w.restsButHeld d q := by
  rcases h.others q e with k | ⟨-, k, -⟩
  · have up := h.allUp hr e hd
    unfold State.restsButHeld at hq ⊢
    rw [k]
    simp only [h.moves.gateOpen, h.mayStart hr, h.allGood hr, h.moves.demanded, h.moves.zoneNormal]
    cases hs : (v.rails.get q).state <;> simp only [hs] at hq ⊢
    case ramping => exact fun hp => up (by rw [hs]; rfl) (hq hp)
    case good | draining => exact ⟨fun hp => up (by rw [hs]; rfl) (hq.1 hp), hq.2⟩
    all_goals exact hq
  · unfold State.restsButHeld
    rw [k]
    trivial

theorem refl (hr : (v.rails.get r).state = .off) : v.GoesOn r c v :=
  ⟨State.MovesTo.refl v, fun _ _ => .inl rfl, .inl hr⟩

/-- Rail `r` starts: through SETTLING at least, where all its prerequisites are GOOD. -/
theorem starts (h : v.GoesOn r c w) (hm : v.MovesTo (w.enterSettling c r)) (hg : v.allGood c r = true) :
    v.GoesOn r c (w.enterSettling c r) where
  moves := hm
  others q e := by
    rw [State.enterSettling_others _ _ _ _ e]
    exact h.others q e
  rail := by
    refine .inr (.inr ⟨hg, ?_⟩)
    rw [State.enterSettling_eq]
    split <;> simp [Rail.entered]

/-- Rail `r` itself finds its prerequisites up while they are all GOOD. -/
theorem allUp_self (h : v.GoesOn r c w) (hr : (v.rails.get r).state = .off) (hu : v.allUp c r = true)
    (hg : v.allGood c r = true) : w.allUp c r = true := by
  have good := (h.allGood hr c r).trans hg
  rw [State.allGood, Bool.and_eq_true] at good
  rw [State.allUp, Bool.and_eq_true] at hu ⊢
  exact ⟨(h.moves.kept r).2.1.trans hu.1, State.localAll_up_of_good good.2⟩

/-- One more move. -/
theorem react (hr : (v.rails.get r).state = .off) (hc : v.fittedConfig r = some c) (gate : v.gateOpen c = true)
    (up : v.allGood c r = true → v.allUp c r = true)
    (rest : ∀ q d, q ≠ r → v.fittedConfig q = some d → v.restsButHeld d q)
    (h : v.GoesOn r c w) {o : Occasion} {q : RailIx} {x : State} (hx : w.react o q = some x) : v.GoesOn r c x := by
  have moves : v.MovesTo x := h.moves.trans (State.MovesTo.react hx)
  have others (p : RailIx) (e : p ≠ q) : x.rails.get p = w.rails.get p := (State.react_sameRail hx p e).1
  obtain ⟨d, hd, reaction⟩ := State.react_reaction hx
  rw [h.moves.fitted] at hd
  by_cases e : q = r
  · subst e
    rw [hc] at hd
    cases hd
    have gate : w.gateOpen c = true := by rw [h.moves.gateOpen, gate]
    have waits (hw : x = w.enter q .waiting) : v.GoesOn q c x :=
      ⟨moves, fun p e => by rw [others p e]; exact h.others p e, .inr (.inl (by rw [hw]; simp))⟩
    cases reaction with
    | opens hs hg =>
      rw [State.enterWaiting_eq] at moves waits ⊢
      split
      · rename_i hm
        rw [if_pos hm] at moves
        have entered : w.MovesTo (w.enter q .waiting) :=
          State.MovesTo.enter _ (State.movable_of ((h.moves.fitted q).trans hc) (by simp [hs]) (by simp [hs]))
        have good := entered.allGood (fun p e => State.putRail_others _ _ _ _ _ e) (by simp [hs]) (by simp) c q
        exact h.starts moves ((h.allGood hr c q).symm.trans (good.symm.trans (State.allGood_of_mayStart hm)))
      · rename_i hm
        rw [if_neg hm] at waits
        exact waits rfl
    | shuts _ hg =>
      rw [gate] at hg
      cases hg
    | starts _ _ hm => exact h.starts moves ((h.allGood hr c q).symm.trans (State.allGood_of_mayStart hm))
    | waits _ _ _ => exact waits rfl
    | loses hs hp hu =>
      rcases h.rail with k | k | ⟨hg, k⟩
      · simp [k] at hs
      · simp [k] at hs
      · rw [h.allUp_self hr (up hg) hg] at hu
        cases hu
    | drains hs | released hs | returns hs =>
      rcases h.rail with k | k | ⟨-, k⟩
      · simp [k] at hs
      · simp [k] at hs
      · rw [k] at hs
        split at hs <;> cases hs
  · obtain ⟨hs, hh, rfl⟩ := reaction.released_of_restsButHeld (h.restsButHeld hr e hd (rest q d e hd))
    refine ⟨moves, fun p k => ?_, by rw [others r (Ne.symm e)]; exact h.rail⟩
    by_cases l : p = q
    · subst l
      rcases h.others p k with m | ⟨-, m, -⟩
      · refine .inr ⟨by rw [← m, hs], State.release_state _ _ _, fun p' d' hp' hd' hrel hmem => ?_⟩
        refine Bool.eq_false_iff.1 hh ((w.held_iff p).2 (.inr ⟨p', d', (h.moves.fitted p').trans hd', ?_, ?_⟩))
        · exact (h.relies hp').trans hrel
        · rw [h.moves.own]
          exact hmem
      · rw [hs] at m
        cases m
    · rw [others p l]
      exact h.others p k

/-- All the moves. -/
theorem settle (hr : (v.rails.get r).state = .off) (hc : v.fittedConfig r = some c) (gate : v.gateOpen c = true)
    (up : v.allGood c r = true → v.allUp c r = true)
    (rest : ∀ q d, q ≠ r → v.fittedConfig q = some d → v.restsButHeld d q) (o : Occasion) :
    v.GoesOn r c (v.settle o) := by
  have chain {w : State} (h : Relation.ReflTransGen (State.MovesOnce o) v w) : v.GoesOn r c w := by
    induction h with
    | refl => exact refl hr
    | tail _ k ih =>
      obtain ⟨q, hq⟩ := k
      exact react hr hc gate up rest ih hq
  exact chain (v.settle_reaches o)

end State.GoesOn

/-- A rail whose gate is open does not rest in OFF. -/
theorem State.settle_ne_off {v : State} {r : RailIx} {c : RailConfig} (hc : v.fittedConfig r = some c)
    (gate : v.gateOpen c = true) (o : Occasion) : ((v.settle o).rails.get r).state ≠ .off := by
  intro hs
  have moves := v.settle_moves o
  have rest := (v.settle o).atRest_iff_restsAt.1 (v.settle_atRest o) r c ((moves.fitted r).trans hc)
  unfold State.restsAt at rest
  simp only [hs, moves.gateOpen, gate] at rest
  cases rest

/-- Where the others rest and the view is fresh, a rail in OFF with its gate open comes to WAITING, SETTLING or RAMPING
as its prerequisites and its settle delay give (R8, R9, R12). -/
theorem State.settle_opened {v : State} {r : RailIx} {c : RailConfig} (hc : v.fittedConfig r = some c)
    (hr : (v.rails.get r).state = .off) (gate : v.gateOpen c = true) (hv : v.viewFresh)
    (rest : ∀ q d, q ≠ r → v.fittedConfig q = some d → v.restsButHeld d q) (o : Occasion) :
    let u := v.settle o
    (u.allGood c r = false → (u.rails.get r).state = .waiting) ∧
    (u.allGood c r = true → c.settleDelay ≠ 0 → (u.rails.get r).state = .settling) ∧
    (u.allGood c r = true → c.settleDelay = 0 → (u.rails.get r).state = .ramping) := by
  have goesOn := State.GoesOn.settle hr hc gate (State.allUp_of_allGood hv hc) rest o
  have good : (v.settle o).allGood c r = v.allGood c r := goesOn.allGood hr c r
  have fitted : (v.settle o).fittedConfig r = some c := (goesOn.moves.fitted r).trans hc
  have demanded : v.demanded c.zone = true := ((v.gateOpen_iff c).1 gate).2.2.1
  have started (hg : v.allGood c r = true) :
      ((v.settle o).rails.get r).state = if c.settleDelay = 0 then .ramping else .settling := by
    rcases goesOn.rail with k | k | ⟨-, k⟩
    · exact absurd k (State.settle_ne_off hc gate o)
    · have at_ := (v.settle o).atRest_iff_restsAt.1 (v.settle_atRest o) r c fitted
      unfold State.restsAt at at_
      simp only [k, goesOn.mayStart hr, State.mayStart_of_allGood hv hc hg demanded] at at_
      exact absurd at_.2 (by simp)
    · exact k
  dsimp only
  rw [good]
  refine ⟨fun hg => ?_, fun hg hd => (started hg).trans (if_neg hd), fun hg hd => (started hg).trans (if_pos hd)⟩
  rcases goesOn.rail with k | k | ⟨k, -⟩
  · exact absurd k (State.settle_ne_off hc gate o)
  · exact k
  · rw [hg] at k
    cases k

/-! ### A rail from FALLING to OFF (R20) -/

/-- The DISCHARGE record of rail `r` that is below its discharge level now. -/
def State.dischargeRecord (s : State) (r : RailIx) : TimingRecord :=
  s.makeRecord r .discharge (.cause (s.rails.get r).fallCause) (s.widthSince (s.rails.get r).since) false

/-- Rail `r` in OFF with its record queued, before its gate is judged. -/
def State.fallen (s : State) (r : RailIx) : State :=
  (s.queueRecord (s.dischargeRecord r)).putRail r ((s.rails.get r).entered .off s.now)
    (s.monitor.rails.get r).restarted

theorem State.discharged_eq (s : State) (o : Occasion) (r : RailIx) : s.discharged o r = (s.fallen r).settle o := by
  have : s.discharged o r = ((s.queueRecord (s.dischargeRecord r)).enter r .off).settle o := rfl
  rw [this, State.enter_eq, State.queueRecord_rails, State.queueRecord_now, State.queueRecord_monitor]
  rfl

namespace State.fallen
variable (s : State) (r : RailIx)

theorem startup_eq : (s.fallen r).startup = s.startup := State.queueRecord_startup _ _

theorem fitted (q : RailIx) : (s.fallen r).fittedConfig q = s.fittedConfig q :=
  State.fittedConfig_congr (startup_eq s r) q

theorem rail : (s.fallen r).rails.get r = (s.rails.get r).entered .off s.now := by
  rw [State.fallen, State.putRail_rails, Four.get_set_same]

theorem others {q : RailIx} (e : q ≠ r) : (s.fallen r).rails.get q = s.rails.get q := by
  rw [State.fallen, State.putRail_others _ _ _ _ _ e, State.queueRecord_rails]

theorem gateOpen (c : RailConfig) : (s.fallen r).gateOpen c = s.gateOpen c := by
  rw [State.fallen, State.queueRecord_eq]
  rfl

theorem enters {c : RailConfig} (hc : s.fittedConfig r = some c) : s.RailsEnter (s.fallen r) := by
  have hq := State.RailsEnter.queueRecord s (s.dischargeRecord r)
  exact hq.trans (State.RailsEnter.putRail ((hq.fitted r).trans hc)
    ⟨by simp [Rail.entered], rfl, rfl, rfl, rfl, by simp [Rail.entered], by simp [Rail.entered],
      by simp [Rail.entered]⟩ rfl rfl)

theorem zoneNormal (z : ZoneIx) : (s.fallen r).zoneNormal z = s.zoneNormal z := by
  rw [State.fallen, State.queueRecord_eq]
  rfl

variable {s r}

/-- The conditions of the other rails, but for what holds them, are as they were: FALLING and OFF are neither up. -/
theorem restsButHeld {c : RailConfig} (hc : s.fittedConfig r = some c) (hs : (s.rails.get r).state = .falling)
    {q : RailIx} (e : q ≠ r) {d : RailConfig} (h : s.restsButHeld d q) : (s.fallen r).restsButHeld d q := by
  have enters := enters s r hc
  obtain ⟨keptGood, keptUp, -⟩ := enters.kept q
  have off : ((s.fallen r).rails.get r).state = .off := by
    rw [rail]
    rfl
  have good : (s.fallen r).allGood d q = s.allGood d q := State.allGood_congr enters.startup keptGood (fun p => by
    by_cases k : p = r
    · rw [k, off, hs]
      simp
    · rw [others s r k]) d
  have up : (s.fallen r).allUp d q = s.allUp d q := State.allUp_congr enters.startup keptUp (fun p => by
    by_cases k : p = r
    · rw [k, off, hs]
      rfl
    · rw [others s r k]) d
  have view : s.SameView (s.fallen r) := .of_eq enters.startup enters.peers
  have may : (s.fallen r).mayStart d q = s.mayStart d q := by
    rw [State.mayStart, State.mayStart, good, view.remoteAll, view.shelfDemand enters.ownDemand]
  unfold State.restsButHeld at h ⊢
  rw [others s r e]
  simpa only [gateOpen, good, up, may, enters.demanded, zoneNormal] using h

end State.fallen

/-- Settles O29: a rail in OFF stays there behind a closed gate; behind an open one it alone goes on, since the only
rails that its fall can have let go are those that no other rail relies on. -/
theorem belowSampleEndsFall : Obligations.BelowSampleEndsFall := by
  refine ⟨fun o s r c t hc hs ht hlate => ?_, fun o s r c hc hs hfall hcls => ?_, fun o s r => ?_⟩
  · rw [State.actOnSample_falling hc hs, ht, if_pos (State.overdue_some hlate)]
    exact State.faultRail_taken hc (by rw [hs]; rfl) o
  · have ends : s.actOnSample o r = (s.fallen r).settle o := by
      rw [State.actOnSample_falling hc hs, State.overdue_eq_false hfall, if_neg Bool.false_ne_true, if_pos hcls,
        State.discharged_eq]
    have fitted : (s.fallen r).fittedConfig r = some c := (State.fallen.fitted s r r).trans hc
    have off : ((s.fallen r).rails.get r).state = .off := by rw [State.fallen.rail]; rfl
    rw [ends]
    refine ⟨?_, fun hg => ?_, fun hg => ?_⟩
    · have settles := State.settle_settlesTo (s.fallen r) o
      rw [State.fallen, State.putRail, State.setRail, State.setMonitor, State.queueRecord_rails,
        State.queueRecord_monitor] at settles ⊢
      exact settles
    · rw [← State.gateOpen_iff, ← State.fallen.gateOpen s r, Bool.not_eq_true] at hg
      rw [(State.settle_sameRail_off fitted off hg o).1, State.fallen.rail]
      rfl
    · rw [← State.gateOpen_iff, ← State.fallen.gateOpen s r] at hg
      refine ⟨State.settle_ne_off fitted hg o, fun hrest hv => ?_⟩
      refine State.settle_opened fitted off hg ((State.fallen.enters s r hc).viewFresh hv) (fun q d e hd => ?_) o
      rw [State.fallen.fitted] at hd
      exact State.fallen.restsButHeld hc hs e (s.atRest_iff_restsAt.1 hrest q d hd).butHeld
  · refine ⟨fun hc => State.actOnSample_unfitted hc o, fun c hc => ⟨fun hs => State.actOnSample_fault hc hs o,
      fun hs ht hq => ?_, fun hs ht hq => ?_⟩⟩
    · rw [State.actOnSample_ramping hc hs, State.overdue_eq_false ht, if_neg Bool.false_ne_true, if_neg]
      rintro ⟨hw, hp⟩
      rcases hq with hq | ⟨hu, hm⟩
      · exact hq hw
      · rcases hp with hp | hp
        · rw [hu] at hp
          cases hp
        · rw [hm] at hp
          cases hp
    · rw [State.actOnSample_falling hc hs, State.overdue_eq_false ht, if_neg Bool.false_ne_true, if_neg hq]

end Sys2Proof.Machine

/-! Proofs about Table 10: the move of each rail state, row by row. -/

namespace Sys2Proof.Machine
open Sys2Proof

/-! ### Readings -/

theorem RailState.relies_iff (st : RailState) :
    st.relies = true ↔ st ∈ [RailState.settling, .ramping, .good, .draining, .falling] := by
  cases st <;> simp [RailState.relies]

theorem RailState.enabled_iff (st : RailState) :
    st.enabled = true ↔ st = .ramping ∨ st = .good ∨ st = .draining := by
  cases st <;> simp [RailState.enabled]

theorem State.allGood_iff (s : State) (c : RailConfig) (r : RailIx) :
    s.allGood c r = true ↔ (s.rails.get r).remoteGood = true ∧
      ∀ p ∈ c.prerequisites, p.station = s.own → s.shownState p.rail = .good := by
  simp only [State.allGood, Bool.and_eq_true, State.localAll_iff, decide_eq_true_eq]

theorem State.allUp_iff (s : State) (c : RailConfig) (r : RailIx) :
    s.allUp c r = true ↔ (s.rails.get r).remoteUp = true ∧
      ∀ p ∈ c.prerequisites, p.station = s.own → s.shownState p.rail = .good ∨ s.shownState p.rail = .draining := by
  simp only [State.allUp, Bool.and_eq_true, State.localAll_iff, RailState.up_iff]

theorem State.mayStart_iff (s : State) (c : RailConfig) (r : RailIx) :
    s.mayStart c r = true ↔
      ((s.rails.get r).remoteGood = true ∧ ∀ p ∈ c.prerequisites, p.station = s.own → s.shownState p.rail = .good) ∧
      (∀ p ∈ c.prerequisites, p.station ≠ s.own →
        ∃ e, s.peers[p.station]? = some e ∧ e.presence = .present ∧ e.rails.get p.rail = .good) ∧
      (s.zones.ownDemand.getLsbD c.zone.toNat = true ∨
        ∃ n e, s.peers[n]? = some e ∧ n ≠ s.own ∧ e.presence = .present ∧ e.demand.getLsbD c.zone.toNat = true) := by
  simp only [State.mayStart, Bool.and_eq_true, State.allGood_iff, State.remoteAll_iff, State.shelfDemand_iff,
    decide_eq_true_eq, and_assoc]

/-! ### The moves by the rail's state -/

/-- The first entry that answers gives the answer. -/
theorem findSome?_of_first {α β : Type} {f : α → Option β} {l₁ l₂ : List α} {v : α} {b : β}
    (h : ∀ w ∈ l₁, f w = none) (hv : f v = some b) : (l₁ ++ v :: l₂).findSome? f = some b := by
  rw [List.findSome?_append, List.findSome?_eq_none_iff.2 h, List.findSome?_cons, hv]
  rfl

section
variable {s : State} {r : RailIx} {c : RailConfig} (hc : s.fittedConfig r = some c) (o : Occasion)
include hc

theorem State.react_off (hs : (s.rails.get r).state = .off) :
    s.react o r =
      if s.gateOpen c then some (if s.mayStart c r then s.enterSettling c r else s.enter r .waiting) else none := by
  have moves : s.MovesTo (s.enter r .waiting) :=
    State.MovesTo.enter _ (State.movable_of hc (by simp [hs]) (by simp [hs]))
  have may : (s.enter r .waiting).mayStart c r = s.mayStart c r :=
    moves.mayStart (moves.allGood (fun q e => State.putRail_others _ _ _ _ _ e) (by simp [hs]) (by simp) c r)
  simp only [State.react, hc, hs, State.enterWaiting_eq, may]

theorem State.react_waiting (hs : (s.rails.get r).state = .waiting) :
    s.react o r =
      if s.gateOpen c then (if s.mayStart c r then some (s.enterSettling c r) else none)
      else some (s.enter r .off) := by
  simp only [State.react, hc, hs]
  cases s.gateOpen c <;> rfl

theorem State.react_settling (hs : (s.rails.get r).state = .settling) :
    s.react o r =
      if s.gateOpen c then (if s.allGood c r then none else some (s.enter r .waiting)) else some (s.enter r .off) := by
  simp only [State.react, hc, hs]
  cases s.gateOpen c <;> cases s.allGood c r <;> rfl

theorem State.react_ramping (hs : (s.rails.get r).state = .ramping) : s.react o r = s.followLoss c r := by
  simp only [State.react, hc, hs]

theorem State.react_good (hs : (s.rails.get r).state = .good) :
    s.react o r = (viewOrder o).findSome? (s.goodReaction c r) := by simp only [State.react, hc, hs]

theorem State.react_draining (hs : (s.rails.get r).state = .draining) :
    s.react o r = (viewOrder o).findSome? (s.drainingReaction c r) := by simp only [State.react, hc, hs]

theorem State.react_still (hs : (s.rails.get r).state = .falling ∨ (s.rails.get r).state = .fault) :
    s.react o r = none := by
  rcases hs with hs | hs <;> simp only [State.react, hc, hs]

end

theorem State.followLoss_of_lost {s : State} {c : RailConfig} {r : RailIx} (hp : c.policy = .follow)
    (hu : ¬ s.allUp c r = true) : s.followLoss c r = some (s.enterFalling c r .prereqLost) := by
  simp [State.followLoss, hp, hu]

theorem State.followLoss_of_kept {s : State} {c : RailConfig} {r : RailIx}
    (h : ¬ (c.policy = .follow ∧ ¬ s.allUp c r = true)) : s.followLoss c r = none := by
  simpa [State.followLoss] using h

/-- What makes a rail in GOOD move at one of its judgements. -/
def State.goodApplies (s : State) (c : RailConfig) (r : RailIx) : View → Prop
  | .prerequisites => c.policy = .follow ∧ ¬ s.allUp c r = true
  | .holds => False
  | .demand => s.demanded c.zone = false

theorem State.goodReaction_eq_none {s : State} {c : RailConfig} {r : RailIx} {v : View} (h : ¬ s.goodApplies c r v) :
    s.goodReaction c r v = none := by
  cases v with
  | prerequisites => exact State.followLoss_of_kept h
  | holds => rfl
  | demand => exact if_pos (eq_true_of_ne_false h)

theorem State.goodReaction_demand {s : State} {c : RailConfig} {r : RailIx} (h : s.demanded c.zone = false) :
    s.goodReaction c r .demand = some (s.enterDraining c r) := by
  simp [State.goodReaction, h]

/-- What makes a rail in DRAINING move at one of its judgements. -/
def State.drainingApplies (s : State) (c : RailConfig) (r : RailIx) : View → Prop
  | .prerequisites => c.policy = .follow ∧ ¬ s.allUp c r = true
  | .holds => ¬ s.held r = true
  | .demand => s.demanded c.zone = true ∧ (s.zones.entries.get c.zone).condition = .normal

theorem State.drainingReaction_eq_none {s : State} {c : RailConfig} {r : RailIx} {v : View}
    (h : ¬ s.drainingApplies c r v) : s.drainingReaction c r v = none := by
  cases v with
  | prerequisites => exact State.followLoss_of_kept h
  | holds => exact if_pos (not_not.1 h)
  | demand =>
    have h : ¬ (s.demanded c.zone && s.zoneNormal c.zone) = true := by
      simpa [State.drainingApplies, State.zoneNormal] using h
    exact if_neg h

theorem State.drainingReaction_holds {s : State} {c : RailConfig} {r : RailIx} (h : ¬ s.held r = true) :
    s.drainingReaction c r .holds = some (s.release c r) := if_neg h

theorem State.drainingReaction_demand {s : State} {c : RailConfig} {r : RailIx} (hd : s.demanded c.zone = true)
    (hz : (s.zones.entries.get c.zone).condition = .normal) :
    s.drainingReaction c r .demand = some (s.enter r .good) := by
  simp [State.drainingReaction, State.zoneNormal, hd, hz]

/-! ### What a move puts in place -/

theorem State.enterSettling_put (s : State) (c : RailConfig) (r : RailIx) :
    s.enterSettling c r = s.putRail r
      (if c.settleDelay = 0 then
        { (s.rails.get r).entered .ramping s.now with ramp := some { start := s.now, length := c.rampTimeout } }
      else
        { (s.rails.get r).entered .settling s.now with settle := some { start := s.now, length := c.settleDelay } })
      (s.monitor.rails.get r).restarted := by
  rw [State.enterSettling_eq]
  split <;> rfl

/-- A rail released from DRAINING falls with its record (R41). -/
theorem State.release_eq (s : State) (c : RailConfig) (r : RailIx) :
    s.release c r =
      (s.queueRecord (s.makeRecord r .drain .none (s.widthSince (s.rails.get r).drainFrom) false)).putRail r
        { (s.rails.get r).entered .falling s.now with
          fallCause := .demand, discharge := some { start := s.now, length := c.dischargeTimeout } }
        (s.monitor.rails.get r).restarted := by
  rw [State.release, State.enterFalling_eq, State.queueRecord_rails, State.queueRecord_now, State.queueRecord_monitor]

/-- With a record queued first, a rail's records are still put where they stood. -/
theorem State.queueRecord_put (s : State) (x : TimingRecord) (r : RailIx) (y : Rail) (m : Monitor) :
    (s.queueRecord x).putRail r y m =
      { s.queueRecord x with
        rails := s.rails.set r y
        monitor := { s.monitor with rails := s.monitor.rails.set r m } } := by
  rw [State.putRail, State.setRail, State.setMonitor, State.queueRecord_rails, State.queueRecord_monitor]

theorem State.enterDraining_held {s : State} {r : RailIx} {c : RailConfig} (hc : s.fittedConfig r = some c)
    (hs : (s.rails.get r).state = .good) (hh : s.held r = true) : s.enterDraining c r = s.draining c r := by
  rw [State.enterDraining_eq, State.draining_held hc (.inr hs), if_pos hh]

theorem State.enterDraining_released {s : State} {r : RailIx} {c : RailConfig} (hc : s.fittedConfig r = some c)
    (hs : (s.rails.get r).state = .good) (hh : ¬ s.held r = true) :
    s.enterDraining c r = (s.draining c r).release c r := by
  rw [State.enterDraining_eq, State.draining_held hc (.inr hs), if_neg hh]

/-- Settles O60: each state's reaction, its conditions read as the table gives them. -/
theorem railsMoveAsTabled : Obligations.RailsMoveAsTabled := by
  refine ⟨fun s r => ⟨(s.shownState r).enabled_iff, fun h => ?_, fun c h => ?_⟩,
    fun o s r => ⟨fun h => ?_, fun c hc => ?_⟩⟩
  · simp only [State.shownState, h]
  · simp only [State.shownState, h]
  · simp only [State.react, h]
  have gate := s.gateOpen_iff c
  have may := s.mayStart_iff c r
  have good := s.allGood_iff c r
  have up := s.allUp_iff c r
  have held := s.held_iff r
  simp only [RailState.relies_iff] at held
  dsimp only
  rw [← gate, ← may, ← up, ← good, ← held]
  cases hs : (s.rails.get r).state
  case falling => exact State.react_still hc o (.inl hs)
  case fault => exact State.react_still hc o (.inr hs)
  case off =>
    rw [State.react_off hc o hs]
    refine ⟨fun hg => if_neg hg, fun hg hm => ?_, fun hg hm => ?_⟩
    · rw [if_pos hg, if_pos hm, State.enterSettling_put]
      rfl
    · rw [if_pos hg, if_neg hm]
      rfl
  case waiting =>
    rw [State.react_waiting hc o hs]
    refine ⟨fun hg => if_neg hg, fun hg hm => ?_, fun hg hm => ?_⟩
    · rw [if_pos hg, if_pos hm, State.enterSettling_put]
      rfl
    · rw [if_pos hg, if_neg hm]
  case settling =>
    rw [State.react_settling hc o hs]
    refine ⟨fun hg => if_neg hg, fun hg hm => ?_, fun hg hm => ?_⟩
    · rw [if_pos hg, if_neg hm]
      rfl
    · rw [if_pos hg, if_pos hm]
  case ramping =>
    rw [State.react_ramping hc o hs]
    refine ⟨fun ⟨hp, hu⟩ => ?_, State.followLoss_of_kept⟩
    rw [State.followLoss_of_lost hp hu, State.enterFalling_eq]
    rfl
  case good =>
    rw [State.react_good hc o hs]
    have before {l : List View} (hn : ∀ w ∈ l, ¬ s.goodApplies c r w) : ∀ w ∈ l, s.goodReaction c r w = none :=
      fun w hw => State.goodReaction_eq_none (hn w hw)
    refine ⟨fun ⟨⟨hp, hu⟩, l₁, l₂, hl, hn⟩ => ?_, fun ⟨hd, l₁, l₂, hl, hn⟩ hh => ?_,
      fun ⟨hd, l₁, l₂, hl, hn⟩ hh => ?_, fun hn => ?_⟩
    · rw [hl]
      refine findSome?_of_first (before hn) ((State.followLoss_of_lost hp hu).trans ?_)
      rw [State.enterFalling_eq]
      rfl
    · rw [hl]
      refine findSome?_of_first (before hn) ((State.goodReaction_demand hd).trans ?_)
      rw [State.enterDraining_held hc hs hh]
      rfl
    · rw [hl]
      refine findSome?_of_first (before hn) ((State.goodReaction_demand hd).trans ?_)
      rw [State.enterDraining_released hc hs hh, State.draining_release, State.queueRecord_put]
      rfl
    · exact List.findSome?_eq_none_iff.2 (before fun w _ => hn w)
  case draining =>
    rw [State.react_draining hc o hs]
    have before {l : List View} (hn : ∀ w ∈ l, ¬ s.drainingApplies c r w) :
        ∀ w ∈ l, s.drainingReaction c r w = none := fun w hw => State.drainingReaction_eq_none (hn w hw)
    refine ⟨fun ⟨⟨hp, hu⟩, l₁, l₂, hl, hn⟩ => ?_, fun ⟨hh, l₁, l₂, hl, hn⟩ => ?_,
      fun ⟨⟨hd, hz⟩, l₁, l₂, hl, hn⟩ => ?_, fun hn => ?_⟩
    · rw [hl]
      refine findSome?_of_first (before hn) ((State.followLoss_of_lost hp hu).trans ?_)
      rw [State.enterFalling_eq]
      rfl
    · rw [hl]
      refine findSome?_of_first (before hn) ((State.drainingReaction_holds hh).trans ?_)
      rw [State.release_eq, State.queueRecord_put]
      rfl
    · rw [hl]
      exact findSome?_of_first (before hn) (State.drainingReaction_demand hd hz)
    · exact List.findSome?_eq_none_iff.2 (before fun w _ => hn w)

end Sys2Proof.Machine

/-! Proofs about the reset state. -/

namespace Sys2Proof.Machine
open Sys2Proof

/-! ### The power-on values (Table 49) -/

theorem reset_rails (r : RailIx) : State.reset.rails.get r = Rail.cleared := by cases r <;> rfl

theorem reset_monitor (r : RailIx) : State.reset.monitor.rails.get r = Monitor.cleared := by cases r <;> rfl

theorem reset_zones (z : ZoneIx) : State.reset.zones.entries.get z = Zone.cleared := by cases z <;> rfl

/-- No rail is fitted before a configuration is loaded (R2). -/
theorem reset_fitted (r : RailIx) : State.reset.fittedConfig r = none := State.fittedConfig_none rfl r

theorem reset_held (r : RailIx) : State.reset.held r = false := by
  rw [Bool.eq_false_iff, ne_eq, State.held_iff]
  rintro (h | ⟨q, d, h, -⟩)
  · rw [reset_rails] at h
    cases h
  · rw [reset_fitted] at h
    cases h

theorem reset_enable (r : RailIx) : State.reset.enable r = false := by
  rw [State.enable, State.shownState, reset_fitted]
  rfl

/-! ### The invariants -/

theorem reset_timersFit : State.reset.timersFit := timersFit_of_idle fun r => by
  rw [reset_rails, reset_monitor]
  exact ⟨rfl, rfl, rfl, rfl, rfl, rfl⟩

theorem reset_queueSound : State.reset.queueSound :=
  ⟨Nat.zero_le _, Nat.zero_le _, fun _ h => absurd h List.not_mem_nil, fun _ h => by cases h⟩

theorem reset_zonesSound : State.reset.zonesSound := fun z h => by
  rw [reset_zones] at h
  cases h

theorem reset_viewFresh : State.reset.viewFresh := by
  refine ⟨rfl, fun z => ?_, fun r => ?_, fun r c h => ?_, fun _ => rfl⟩
  · rw [State.demanded, reset_zones]
    cases z <;> rfl
  · rw [reset_rails]
    rfl
  · rw [reset_fitted] at h
    cases h

/-- A station just reset has no configuration, and loads one. -/
theorem reset_unconfigured : State.reset.Unconfigured :=
  ⟨rfl, .inl rfl, rfl, rfl, rfl, rfl, rfl, fun _ => rfl, fun h => absurd rfl h⟩

theorem reset_sound : State.reset.sound :=
  (State.sound_iff _).2 ⟨reset_unconfigured.phaseSound,
    (State.railsDown_iff _).2 (railsDownBut_of_off fun r => by rw [reset_rails]; rfl)⟩

theorem reset_countsSound : State.reset.countsSound :=
  ⟨Nat.zero_le _, Nat.zero_le _, Nat.zero_le _, Nat.zero_le _⟩

theorem reset_missesSound : State.reset.missesSound := fun _ h => absurd h List.not_mem_nil

/-- Settles O3: the values by evaluation, and each invariant from what a station without a configuration has. -/
theorem resetHoldsPowerOnValues : Obligations.ResetHoldsPowerOnValues := by
  refine ⟨⟨rfl, rfl, rfl, rfl, rfl, rfl, fun r => ?_, reset_monitor, reset_zones, rfl, rfl, rfl, rfl, rfl, rfl, rfl,
    rfl, rfl, rfl, rfl, rfl, rfl, rfl⟩, State.atRest_of_unconfigured rfl, reset_timersFit, reset_queueSound,
    reset_zonesSound, reset_viewFresh, reset_sound, reset_countsSound, reset_missesSound,
    State.timersAgree_of_unconfigured rfl⟩
  rw [reset_rails]
  exact ⟨rfl, rfl, rfl, rfl, rfl, rfl, rfl, reset_held r, reset_enable r⟩

end Sys2Proof.Machine

/-! Proofs about drains that are forced or go on, and about the hold list. -/

namespace Sys2Proof.Machine
open Sys2Proof

/-! ### Drains (R42, R44) -/

theorem execDrainForced_none {s : State} {r : RailIx} (h : (s.rails.get r).drain = none) (o : Occasion) :
    execDrainForced o r s = .next (s.after o) := by
  have h' : ((s.after o).rails.get r).drain = none := h
  unfold execDrainForced
  dsimp only
  rw [h']
  cases (s.after o).fittedConfig r <;> rfl

theorem execDrainForced_draining {s : State} {r : RailIx} {c : RailConfig} {t : Timer}
    (hc : s.fittedConfig r = some c) (hs : (s.rails.get r).state = .draining) (ht : (s.rails.get r).drain = some t)
    (o : Occasion) :
    execDrainForced o r s =
      let u := (s.after o).notBefore t.due
      .next (((u.queueRecord (u.makeRecord r .drainForced .none c.drainTimeout false)).enterFalling c r .demand).settle
        o) := by
  have hc' : (s.after o).fittedConfig r = some c := hc
  have ht' : ((s.after o).rails.get r).drain = some t := ht
  unfold execDrainForced
  simp only [hc', ht']
  exact if_pos hs

theorem execDrainContinued_draining {s : State} {r : RailIx} {c : RailConfig} (hc : s.fittedConfig r = some c)
    (hs : (s.rails.get r).state = .draining) (hd : c.drainTimeout = 0) (o : Occasion) :
    execDrainContinued o r s =
      let full := (s.rails.get r).drainFrom + 65535 * 1600
      let u := (s.after o).notBefore full
      .next ((u.queueRecord (u.makeRecord r .drain .none 65535 true)).setRail r
        { s.rails.get r with drainFrom := full }) := by
  have hc' : (s.after o).fittedConfig r = some c := hc
  unfold execDrainContinued
  simp only [hc']
  exact if_pos ⟨hs, hd⟩

/-- A rail that falls with a record queued first has its records put where they stood. -/
theorem State.queueRecord_enterFalling (s : State) (x : TimingRecord) (c : RailConfig) (r : RailIx)
    (cause : FallCause) :
    (s.queueRecord x).enterFalling c r cause =
      { s.queueRecord x with
        rails := s.rails.set r
          { (s.rails.get r).entered .falling s.now with
            fallCause := cause, discharge := some { start := s.now, length := c.dischargeTimeout } }
        monitor := { s.monitor with rails := s.monitor.rails.set r (s.monitor.rails.get r).restarted } } := by
  rw [State.enterFalling_eq, State.queueRecord_put, State.queueRecord_rails, State.queueRecord_now,
    State.queueRecord_monitor]

/-- Settling moves no rail out of FALLING, so its enable stays removed (R19). -/
theorem State.SettlesTo.enable_of_falling {o : Occasion} {s t : State} (h : State.SettlesTo o s t) {r : RailIx}
    {c : RailConfig} (hc : s.fittedConfig r = some c) (hs : (s.rails.get r).state = .falling) : t.enable r = false := by
  have moves := h.moves
  have stays : t.rails.get r = s.rails.get r := (moves.still r (.inr (.inl hs))).1
  rw [State.enable_of_fitted ((moves.fitted r).trans hc), stays, hs]
  rfl

/-- Settles O34: the forced rail enters FALLING before anything settles, and no settling moves it again. -/
theorem drainsAreForcedAndContinued : Obligations.DrainsAreForcedAndContinued := by
  refine ⟨fun o s r c hc => ⟨fun h => execDrainForced_none h o, fun t hs ht => ?_⟩, fun o s r c hc hs hd => ?_⟩
  · let u := (s.after o).notBefore t.due
    let x := u.makeRecord r .drainForced .none c.drainTimeout false
    have fitted : ((u.queueRecord x).enterFalling c r .demand).fittedConfig r = some c :=
      (State.fittedConfig_congr (u.queueRecord_startup x) r).trans hc
    have settles := State.settle_settlesTo ((u.queueRecord x).enterFalling c r .demand) o
    refine ⟨_, execDrainForced_draining hc hs ht o,
      settles.enable_of_falling fitted (State.enterFalling_state _ c r _), ?_⟩
    exact (congrArg (State.SettlesTo o · _) (State.queueRecord_enterFalling u x c r .demand)).mp settles
  · refine (execDrainContinued_draining hc hs hd o).trans ?_
    simp only [State.setRail, State.queueRecord_rails]
    rfl

/-! ### The hold list (R34, R35) -/

/-- Whether number `b`, 4 × station + rail, is that of a remote prerequisite of a fitted rail that `relies` picks. -/
def namesRemote (rails : Four RailConfig) (own : Nat) (relies : RailIx → Bool) (b : Nat) : Bool :=
  RailIx.all.any fun r =>
    (rails.get r).fitted && relies r
      && (rails.get r).prerequisites.any (fun p => p.station != own && 4 * p.station + p.rail.toNat == b)

theorem remoteBytes_eq (rails : Four RailConfig) (own : Nat) (relies : RailIx → Bool) :
    remoteBytes rails own relies = ((List.range 128).filter (namesRemote rails own relies)).map (BitVec.ofNat 8) := rfl

theorem RailIx.toNat_lt (r : RailIx) : r.toNat < 4 := by cases r <;> decide

/-- The rail is the number modulo 4 (Table 58), and the station what is left. -/
theorem Ref.number_inj {p q : Ref} (h : 4 * p.station + p.rail.toNat = 4 * q.station + q.rail.toNat) : p = q := by
  have hp := RailIx.toNat_lt p.rail
  have hq := RailIx.toNat_lt q.rail
  have rails : p.rail = q.rail :=
    ((RailIx.ofIndex_eq_iff p.rail.toNat p.rail).2 (by omega)).symm.trans ((RailIx.ofIndex_eq_iff _ _).2 (by omega))
  have stations : p.station = q.station := by omega
  obtain ⟨n, x⟩ := p
  exact (Ref.mk.injEq ..).mpr ⟨stations, rails⟩

theorem namesRemote_iff (rails : Four RailConfig) (own : Nat) (relies : RailIx → Bool) (p : Ref) :
    namesRemote rails own relies (4 * p.station + p.rail.toNat) = true ↔
      p.station ≠ own ∧ ∃ r, (rails.get r).fitted = true ∧ relies r = true ∧ p ∈ (rails.get r).prerequisites := by
  simp only [namesRemote, List.any_eq_true, Bool.and_eq_true, bne_iff_ne, ne_eq, beq_iff_eq]
  constructor
  · rintro ⟨r, -, ⟨hf, hr⟩, q, hq, hne, he⟩
    obtain rfl := Ref.number_inj he
    exact ⟨hne, r, hf, hr, hq⟩
  · rintro ⟨hne, r, hf, hr, hp⟩
    exact ⟨r, r.mem_all, ⟨hf, hr⟩, p, hp, hne, rfl⟩

theorem namesRemote_mono {rails : Four RailConfig} {own : Nat} {f g : RailIx → Bool}
    (h : ∀ r, f r = true → g r = true) {b : Nat} (hb : namesRemote rails own f b = true) :
    namesRemote rails own g b = true := by
  simp only [namesRemote, List.any_eq_true (l := RailIx.all), Bool.and_eq_true] at hb ⊢
  obtain ⟨r, hr, ⟨hf, hx⟩, hp⟩ := hb
  exact ⟨r, hr, ⟨hf, h r hx⟩, hp⟩

/-- A byte has room for every number below 128, so the bytes read back as the numbers picked. -/
theorem remoteBytes_toNat (rails : Four RailConfig) (own : Nat) (relies : RailIx → Bool) :
    (remoteBytes rails own relies).map BitVec.toNat = (List.range 128).filter (namesRemote rails own relies) := by
  rw [remoteBytes_eq, List.map_map]
  refine (List.map_congr_left fun b hb => ?_).trans (List.map_id _)
  have : b < 128 := List.mem_range.1 (List.mem_filter.1 hb).1
  simp only [Function.comp_apply, BitVec.toNat_ofNat, id_eq]
  omega

theorem remoteBytes_ascending (rails : Four RailConfig) (own : Nat) (relies : RailIx → Bool) :
    ((remoteBytes rails own relies).map BitVec.toNat).Pairwise (· < ·) := by
  rw [remoteBytes_toNat]
  exact List.pairwise_lt_range.filter _

theorem Ref.toByte_toNat {p : Ref} (h : p.station < 32) : p.toByte.toNat = 4 * p.station + p.rail.toNat := by
  have := RailIx.toNat_lt p.rail
  rw [Ref.toByte, BitVec.toNat_ofNat]
  omega

theorem toByte_mem_remoteBytes_iff {rails : Four RailConfig} {own : Nat} {relies : RailIx → Bool} {p : Ref}
    (h : p.station < 32) :
    p.toByte ∈ remoteBytes rails own relies ↔
      p.station ≠ own ∧ ∃ r, (rails.get r).fitted = true ∧ relies r = true ∧ p ∈ (rails.get r).prerequisites := by
  have bound : 4 * p.station + p.rail.toNat < 128 := by
    have := RailIx.toNat_lt p.rail
    omega
  rw [← List.mem_map_of_injective fun _ _ => BitVec.eq_of_toNat_eq, remoteBytes_toNat, List.mem_filter,
    Ref.toByte_toNat h, namesRemote_iff, List.mem_range]
  exact and_iff_right bound

/-- Fewer rails relying on their prerequisites need no more bytes. -/
theorem remoteBytes_length_mono {rails : Four RailConfig} {own : Nat} {f g : RailIx → Bool}
    (h : ∀ r, f r = true → g r = true) :
    (remoteBytes rails own f).length ≤ (remoteBytes rails own g).length := by
  simp only [remoteBytes_eq, List.length_map]
  exact (List.monotone_filter_right _ fun _ => namesRemote_mono h).length_le

theorem State.holdList_eq {s : State} {c : Image} (h : s.startup.config = some c) :
    s.holdList = remoteBytes c.rails s.own (fun r => (s.rails.get r).state.relies) := by
  rw [State.holdList, h]

/-- Settles O39: the hold list is `remoteBytes` of the rails in a held state, and check 7 bounds that of all rails. -/
theorem holdListIsExact : Obligations.HoldListIsExact := by
  intro s c hc _
  rw [State.holdList_eq hc]
  refine ⟨remoteBytes_ascending _ _ _, fun p hp => ?_, fun hsound => ?_⟩
  · simp only [toByte_mem_remoteBytes_iff hp, RailState.relies_iff, List.mem_cons, List.not_mem_nil, or_false]
  · obtain ⟨-, -, -, -, -, hlimit, -⟩ := hsound
    exact (remoteBytes_length_mono fun _ _ => rfl).trans hlimit

end Sys2Proof.Machine

/-! Proofs about the rail monitor: sampling, the sample classes, backfeed, and the supervision of rails that are up. -/

namespace Sys2Proof.Machine
open Sys2Proof

/-! ### Counts and deglitch timers (R55)

`m.restarted` is `m` without its outside count and deglitch timer, so `m.restarted = n.restarted` says that `m` and `n`
differ in these alone. -/

/-- Rail `r`'s outside count becomes `n`. -/
def State.counted (s : State) (r : RailIx) (n : Nat) : State :=
  s.setMonitor r { s.monitor.rails.get r with outside := n }

@[simp] theorem State.counted_monitor_get (s : State) (r : RailIx) (n : Nat) :
    (s.counted r n).monitor.rails.get r = { s.monitor.rails.get r with outside := n } := Four.get_set_same ..

@[simp] theorem State.setMonitor_setMonitor (s : State) (r : RailIx) (m n : Monitor) :
    (s.setMonitor r m).setMonitor r n = s.setMonitor r n := by
  simp only [State.setMonitor, Four.set_set]

@[simp] theorem State.counted_setMonitor (s : State) (r : RailIx) (n : Nat) (m : Monitor) :
    (s.counted r n).setMonitor r m = s.setMonitor r m := State.setMonitor_setMonitor ..

/-- The queue and a monitor record are put in either order. -/
theorem State.queueRecord_setMonitor (s : State) (r : RailIx) (m : Monitor) (x : TimingRecord) :
    (s.setMonitor r m).queueRecord x = (s.queueRecord x).setMonitor r m := by
  obtain ⟨hr, hp⟩ := State.queueRecord_congr (s := s) (t := s.setMonitor r m) rfl rfl x
  rw [State.queueRecord_eq, hr, hp, State.queueRecord_eq s x]
  rfl

/-- A state change discards count and deglitch timer, so what they were makes no difference (R55). -/
theorem State.enter_setMonitor {s : State} {r : RailIx} {m : Monitor}
    (hm : m.restarted = (s.monitor.rails.get r).restarted) (st : RailState) :
    (s.setMonitor r m).enter r st = s.enter r st := by
  have hm' : ((s.setMonitor r m).monitor.rails.get r).restarted = (s.monitor.rails.get r).restarted := by
    rw [State.setMonitor_monitor, Four.get_set_same, hm]
  rw [State.enter_eq, State.enter_eq, hm']
  exact State.setMonitor_setMonitor (s.setRail r _) r m _

/-- A fault is taken as if the count and the deglitch timer had not been touched before it. -/
theorem State.faultRail_setMonitor_taken {s : State} {r : RailIx} {c : RailConfig} {k : FaultKind} {m : Monitor}
    (hc : s.fittedConfig r = some c) (ha : (s.rails.get r).state.accepts k = true)
    (hm : m.restarted = (s.monitor.rails.get r).restarted) (o : Occasion) :
    State.FaultTaken o s c r k ((s.setMonitor r m).faultRail o r k) := by
  have hc' : (s.setMonitor r m).fittedConfig r = some c := hc
  have enters : (s.setMonitor r m).enterFault c r k = s.enterFault c r k := by
    simp only [State.enterFault, State.enter_setMonitor hm]
    rfl
  have faults : (s.setMonitor r m).faultRail o r k = ((s.setMonitor r m).enterFault c r k).settle o := by
    unfold State.faultRail
    rw [hc']
    exact if_pos ha
  rw [faults, enters]
  exact State.enterFault_settle hc k o

/-! ### The sample classes (R54) -/

theorem classify_below_iff (c : RailConfig) (v : Nat) : classify c v = .below ↔ v < c.dischargeLevel := by
  unfold classify
  split_ifs <;> simp only [false_iff, true_iff] <;> omega

theorem classify_inWindow_iff (c : RailConfig) (v : Nat) :
    classify c v = .inWindow ↔
      c.dischargeLevel ≤ v ∧ c.nominal - c.magnitude ≤ v ∧ v ≤ c.nominal + c.magnitude := by
  unfold classify
  split_ifs <;> simp only [false_iff, true_iff] <;> omega

theorem classify_outside_iff (c : RailConfig) (v : Nat) :
    classify c v = .outside ↔ classify c v ≠ .below ∧ classify c v ≠ .inWindow := by
  cases classify c v <;> simp

/-- Settles O27: the three classes exclude one another, and the discharge level lies below the window. -/
theorem sampleClassesAsTabled : Obligations.SampleClassesAsTabled := by
  intro c v hd hm
  refine ⟨classify_below_iff c v, ?_, ?_, ?_, ?_, ?_⟩ <;>
    simp only [classify_outside_iff, ne_eq, classify_below_iff, classify_inWindow_iff] <;> omega

/-! ### Rails that should be down (R66) -/

theorem State.actOnSample_resting {s : State} {r : RailIx} {c : RailConfig} (hc : s.fittedConfig r = some c)
    (hs : (s.rails.get r).state = .off ∨ (s.rails.get r).state = .waiting ∨ (s.rails.get r).state = .settling)
    (o : Occasion) :
    s.actOnSample o r = s.watchBackfeed o c r (classify c (s.monitor.rails.get r).lastSample.toNat) := by
  rcases hs with hs | hs | hs <;> simp only [State.actOnSample, hc, hs]

theorem State.watchBackfeed_below (s : State) (o : Occasion) (c : RailConfig) (r : RailIx) :
    s.watchBackfeed o c r .below = s.counted r 0 := rfl

theorem State.watchBackfeed_above {cls : SampleClass} (h : cls ≠ .below) (s : State) (o : Occasion) (c : RailConfig)
    (r : RailIx) :
    s.watchBackfeed o c r cls =
      let n := (s.monitor.rails.get r).outside + 1
      if c.persistence ≤ n then (s.counted r n).faultRail o r .backfeed else s.counted r n := by
  simp only [State.watchBackfeed, ne_eq, h, not_false_eq_true, true_and]
  rfl

theorem RailState.accepts_backfeed {st : RailState} (h : st = .off ∨ st = .waiting ∨ st = .settling) :
    st.accepts .backfeed = true := by
  rcases h with rfl | rfl | rfl <;> rfl

/-- Settles O30: the sample is counted first, and the fault that the count brings discards it. -/
theorem backfeedIsCounted : Obligations.BackfeedIsCounted := by
  intro o s r c hc hs
  rw [State.actOnSample_resting hc hs]
  refine ⟨fun hb => ?_, fun hb hp => ?_, fun hb hp => ?_⟩
  · rw [hb]
    exact s.watchBackfeed_below o c r
  · rw [State.watchBackfeed_above hb]
    exact if_neg (Nat.not_le.2 hp)
  · rw [State.watchBackfeed_above hb]
    dsimp only
    rw [if_pos hp]
    exact State.faultRail_setMonitor_taken hc (RailState.accepts_backfeed hs) (by rfl) o

/-! ### The power-good input of a rail that is up (R59 to R61) -/

section
variable {s : State} {c : RailConfig} {r : RailIx}

theorem State.supervisePg_unused (hp : c.pgUsed = false) : s.supervisePg c r = (s, false) := by
  simp [State.supervisePg, hp]

theorem State.supervisePg_high (hd : (s.monitor.rails.get r).deglitch = none)
    (hg : (s.monitor.rails.get r).pg = true) : s.supervisePg c r = (s, false) := by
  simp [State.supervisePg, hd, hg]

theorem State.supervisePg_falls (hp : c.pgUsed = true) (hd : (s.monitor.rails.get r).deglitch = none)
    (hg : (s.monitor.rails.get r).pg = false) :
    s.supervisePg c r =
      if c.pgDeglitch = 0 then (s, true)
      else (s.setMonitor r { s.monitor.rails.get r with deglitch := some { start := s.now, length := c.pgDeglitch } },
        false) := by
  simp [State.supervisePg, hp, hd, hg]

theorem State.supervisePg_low {d : Timer} (hd : (s.monitor.rails.get r).deglitch = some d)
    (hg : (s.monitor.rails.get r).pg = false) : s.supervisePg c r = (s, false) := by
  simp [State.supervisePg, hd, hg]

/-- The DROPOUT record that ends deglitch timer `d` now. -/
def State.dropoutRecord (s : State) (r : RailIx) (d : Timer) : TimingRecord :=
  s.makeRecord r .dropout .none (s.widthSince d.start) false

theorem State.supervisePg_rises {d : Timer} (hp : c.pgUsed = true) (hd : (s.monitor.rails.get r).deglitch = some d)
    (hg : (s.monitor.rails.get r).pg = true) :
    s.supervisePg c r =
      ((s.setMonitor r { s.monitor.rails.get r with deglitch := none }).queueRecord (s.dropoutRecord r d), false) := by
  simp [State.supervisePg, State.dropoutRecord, hp, hd, hg]

/-- Unless a dropout ends, a PG level does no more than set the deglitch timer. -/
theorem State.supervisePg_monitor
    (h : (s.monitor.rails.get r).deglitch = none ∨ c.pgUsed = false ∨ (s.monitor.rails.get r).pg = false) :
    ∃ m : Monitor, m.restarted = (s.monitor.rails.get r).restarted ∧ (s.supervisePg c r).1 = s.setMonitor r m := by
  have unchanged : s = s.setMonitor r (s.monitor.rails.get r) := by simp only [State.setMonitor, Four.set_get]
  cases hp : c.pgUsed with
  | false => exact ⟨_, rfl, by rw [State.supervisePg_unused hp]; exact unchanged⟩
  | true =>
    cases hd : (s.monitor.rails.get r).deglitch with
    | none =>
      cases hg : (s.monitor.rails.get r).pg with
      | true => exact ⟨_, rfl, by rw [State.supervisePg_high hd hg]; exact unchanged⟩
      | false =>
        by_cases hz : c.pgDeglitch = 0
        · exact ⟨_, rfl, by rw [State.supervisePg_falls hp hd hg, if_pos hz]; exact unchanged⟩
        · refine ⟨{ s.monitor.rails.get r with deglitch := some { start := s.now, length := c.pgDeglitch } }, rfl, ?_⟩
          rw [State.supervisePg_falls hp hd hg, if_neg hz]
    | some d =>
      have hg : (s.monitor.rails.get r).pg = false := by simpa [hp, hd] using h
      exact ⟨_, rfl, by rw [State.supervisePg_low hd hg]; exact unchanged⟩

/-! ### A sample of a rail that is up (R57 to R63) -/

theorem State.actOnSample_up (hc : s.fittedConfig r = some c)
    (hs : (s.rails.get r).state = .good ∨ (s.rails.get r).state = .draining) (o : Occasion) :
    s.actOnSample o r = s.supervise o c r (classify c (s.monitor.rails.get r).lastSample.toNat) := by
  rcases hs with hs | hs <;> simp only [State.actOnSample, hc, hs]

theorem RailState.accepts_up {st : RailState} (h : st = .good ∨ st = .draining) :
    st.accepts .window = true ∧ st.accepts .pgLost = true := by
  rcases h with rfl | rfl <;> exact ⟨rfl, rfl⟩

theorem State.overdue_idle {x : Option Timer} (h : x = none) : s.overdue x = false := by
  rw [h]
  rfl

theorem State.overdue_inTime {x : Option Timer} {d : Timer} (h : x = some d)
    (ht : s.now ≤ d.start + d.length * 1600) : s.overdue x = false := by
  rw [h]
  exact decide_eq_false (Nat.not_lt.2 ht)

theorem State.supervise_overdue (hp : c.pgUsed = true) (h : s.overdue (s.monitor.rails.get r).deglitch = true)
    (o : Occasion) (cls : SampleClass) : s.supervise o c r cls = s.faultRail o r .pgLost := by
  simp [State.supervise, hp, h]

theorem State.supervise_window {cls : SampleClass}
    (h : c.pgUsed = false ∨ s.overdue (s.monitor.rails.get r).deglitch = false) (hn : cls ≠ .inWindow)
    (hp : c.persistence ≤ (s.monitor.rails.get r).outside + 1) (o : Occasion) :
    s.supervise o c r cls =
      ((s.counted r ((s.monitor.rails.get r).outside + 1)).supervisePg c r).1.faultRail o r .window := by
  have early : (c.pgUsed && s.overdue (s.monitor.rails.get r).deglitch) = false := Bool.and_eq_false_iff.2 h
  simp only [State.supervise, early, Bool.false_eq_true, if_false, ne_eq, hn, not_false_eq_true, true_and,
    if_pos hp]
  rfl

/-- The outside count of a rail that is up, after a sample of class `cls` (R57). -/
def Monitor.outsideAfter (m : Monitor) (cls : SampleClass) : Nat := if cls = .inWindow then 0 else m.outside + 1

theorem State.supervise_supplied {cls : SampleClass}
    (h : c.pgUsed = false ∨ s.overdue (s.monitor.rails.get r).deglitch = false)
    (hw : cls = .inWindow ∨ (s.monitor.rails.get r).outside + 1 < c.persistence) (o : Occasion) :
    s.supervise o c r cls =
      let u := (s.counted r ((s.monitor.rails.get r).outsideAfter cls)).supervisePg c r
      if u.2 then u.1.faultRail o r .pgLost else u.1 := by
  have early : (c.pgUsed && s.overdue (s.monitor.rails.get r).deglitch) = false := Bool.and_eq_false_iff.2 h
  have within : ¬ (cls ≠ .inWindow ∧ c.persistence ≤ (s.monitor.rails.get r).outsideAfter cls) := by
    rintro ⟨hn, hp⟩
    rw [Monitor.outsideAfter, if_neg hn] at hp
    exact hw.elim hn (Nat.not_lt.2 hp)
  simp only [State.supervise, early, Bool.false_eq_true, if_false]
  exact if_neg within

/-! ### The persistence reached: WINDOW (R58, R63) -/

theorem State.supervise_windowFault (hc : s.fittedConfig r = some c)
    (hs : (s.rails.get r).state = .good ∨ (s.rails.get r).state = .draining) {cls : SampleClass} (hn : cls ≠ .inWindow)
    (hp : c.persistence ≤ (s.monitor.rails.get r).outside + 1)
    (hl : c.pgUsed = false ∨ s.overdue (s.monitor.rails.get r).deglitch = false)
    (h : (s.monitor.rails.get r).deglitch = none ∨ c.pgUsed = false ∨ (s.monitor.rails.get r).pg = false)
    (o : Occasion) : State.FaultTaken o s c r .window (s.supervise o c r cls) := by
  obtain ⟨m, hm, he⟩ := State.supervisePg_monitor (s := s.counted r ((s.monitor.rails.get r).outside + 1)) (c := c)
    (r := r) (by simpa using h)
  rw [State.counted_monitor_get] at hm
  rw [State.supervise_window hl hn hp, he, State.counted_setMonitor]
  exact State.faultRail_setMonitor_taken hc (RailState.accepts_up hs).1 hm o

/-- A dropout that the sample of the WINDOW fault ends is recorded first (assumption 13). -/
theorem State.supervise_dropoutThenWindowFault (hc : s.fittedConfig r = some c)
    (hs : (s.rails.get r).state = .good ∨ (s.rails.get r).state = .draining) {cls : SampleClass} (hn : cls ≠ .inWindow)
    (hp : c.persistence ≤ (s.monitor.rails.get r).outside + 1) (hu : c.pgUsed = true) {d : Timer}
    (hd : (s.monitor.rails.get r).deglitch = some d) (ht : s.now ≤ d.start + d.length * 1600)
    (hg : (s.monitor.rails.get r).pg = true) (o : Occasion) :
    State.FaultTaken o (s.queueRecord (s.dropoutRecord r d)) c r .window (s.supervise o c r cls) := by
  rw [State.supervise_window (.inr (State.overdue_inTime hd ht)) hn hp,
    State.supervisePg_rises hu (by simpa using hd) (by simpa using hg), State.counted_setMonitor,
    State.queueRecord_setMonitor]
  refine State.faultRail_setMonitor_taken ((State.fittedConfig_congr (State.queueRecord_startup ..) r).trans hc) ?_ ?_ o
  · rw [State.queueRecord_rails]
    exact (RailState.accepts_up hs).1
  · rw [State.queueRecord_monitor, State.counted_monitor_get]
    rfl

/-! ### The persistence not reached: the power-good input decides (R59 to R61) -/

/-- The monitor record of a rail that is up after a sample of class `cls` that leaves its deglitch timer at `d`. -/
def Monitor.sampled (m : Monitor) (cls : SampleClass) (d : Option Timer) : Monitor :=
  { m with outside := m.outsideAfter cls, deglitch := d }

theorem State.counted_eq_sampled {d : Option Timer} (hd : (s.monitor.rails.get r).deglitch = d) (cls : SampleClass) :
    s.counted r ((s.monitor.rails.get r).outsideAfter cls) =
      s.setMonitor r ((s.monitor.rails.get r).sampled cls d) := by
  rw [Monitor.sampled, ← hd]
  rfl

section
variable {cls : SampleClass} (hw : cls = .inWindow ∨ (s.monitor.rails.get r).outside + 1 < c.persistence) (o : Occasion)
include hw

theorem State.supervise_pgHigh (hd : (s.monitor.rails.get r).deglitch = none)
    (hg : (s.monitor.rails.get r).pg = true) :
    s.supervise o c r cls = s.setMonitor r ((s.monitor.rails.get r).sampled cls none) := by
  rw [State.supervise_supplied (.inr (State.overdue_idle hd)) hw,
    State.supervisePg_high (by simpa using hd) (by simpa using hg)]
  exact State.counted_eq_sampled hd cls

theorem State.supervise_pgFalls (hp : c.pgUsed = true) (hd : (s.monitor.rails.get r).deglitch = none)
    (hg : (s.monitor.rails.get r).pg = false) (hz : c.pgDeglitch ≠ 0) :
    s.supervise o c r cls = s.setMonitor r
      ((s.monitor.rails.get r).sampled cls (some { start := s.now, length := c.pgDeglitch })) := by
  rw [State.supervise_supplied (.inr (State.overdue_idle hd)) hw,
    State.supervisePg_falls hp (by simpa using hd) (by simpa using hg), if_neg hz, State.counted_monitor_get,
    State.counted_setMonitor]
  rfl

theorem State.supervise_pgLost (hc : s.fittedConfig r = some c)
    (hs : (s.rails.get r).state = .good ∨ (s.rails.get r).state = .draining) (hp : c.pgUsed = true)
    (hd : (s.monitor.rails.get r).deglitch = none) (hg : (s.monitor.rails.get r).pg = false) (hz : c.pgDeglitch = 0) :
    State.FaultTaken o s c r .pgLost (s.supervise o c r cls) := by
  rw [State.supervise_supplied (.inr (State.overdue_idle hd)) hw,
    State.supervisePg_falls hp (by simpa using hd) (by simpa using hg), if_pos hz]
  exact State.faultRail_setMonitor_taken hc (RailState.accepts_up hs).2 (by rfl) o

theorem State.supervise_pgLow {d : Timer} (hd : (s.monitor.rails.get r).deglitch = some d)
    (ht : s.now ≤ d.start + d.length * 1600) (hg : (s.monitor.rails.get r).pg = false) :
    s.supervise o c r cls = s.setMonitor r ((s.monitor.rails.get r).sampled cls (some d)) := by
  rw [State.supervise_supplied (.inr (State.overdue_inTime hd ht)) hw,
    State.supervisePg_low (by simpa using hd) (by simpa using hg)]
  exact State.counted_eq_sampled hd cls

theorem State.supervise_pgRises (hp : c.pgUsed = true) {d : Timer} (hd : (s.monitor.rails.get r).deglitch = some d)
    (ht : s.now ≤ d.start + d.length * 1600) (hg : (s.monitor.rails.get r).pg = true) :
    s.supervise o c r cls =
      (s.setMonitor r ((s.monitor.rails.get r).sampled cls none)).queueRecord (s.dropoutRecord r d) := by
  rw [State.supervise_supplied (.inr (State.overdue_inTime hd ht)) hw,
    State.supervisePg_rises hp (by simpa using hd) (by simpa using hg), State.counted_monitor_get,
    State.counted_setMonitor]
  rfl

end

end

/-- Settles O31: an overdue deglitch timer faults first, then the count, then the PG input. -/
theorem railUpIsSupervised : Obligations.RailUpIsSupervised := by
  refine ⟨fun o s r c hc hs => ?_, fun o s r c hc hs hp => ?_⟩ <;> rw [State.actOnSample_up hc hs]
  · refine ⟨fun d hp hd ht => ?_, fun hn hp => ⟨fun h => ?_, fun d hd ht hg => ?_, fun d hu hd ht hg => ?_⟩,
      fun hp hw => ?_⟩
    · rw [State.supervise_overdue hp (by rw [hd]; exact State.overdue_some ht)]
      exact State.faultRail_taken hc (RailState.accepts_up hs).2 o
    · exact State.supervise_windowFault hc hs hn hp (h.symm.imp_right State.overdue_idle) (h.imp_right .inl) o
    · exact State.supervise_windowFault hc hs hn hp (.inr (State.overdue_inTime hd (Nat.not_lt.1 ht)))
        (.inr (.inr hg)) o
    · exact State.supervise_dropoutThenWindowFault hc hs hn hp hu hd (Nat.not_lt.1 ht) hg o
    · rw [State.supervise_supplied (.inl hp) hw, State.supervisePg_unused hp]
      rfl
  · exact fun hw => ⟨State.supervise_pgHigh hw o, State.supervise_pgFalls hw o hp, State.supervise_pgLost hw o hc hs hp,
      fun _ => State.supervise_pgLow hw o, fun _ => State.supervise_pgRises hw o hp⟩

/-! ### What acting on a stored sample leaves alone -/

/-- `t` differs from `s` in rails, outside counts, deglitch timers, zones, records and the board port alone. -/
structure State.SampleFrame (s t : State) : Prop extends State.SameClock s t where
  pending : t.pending = s.pending
  peers : t.peers = s.peers
  line : t.line = s.line
  receiver : t.receiver = s.receiver
  sample : ∀ q, (t.monitor.rails.get q).lastSample = (s.monitor.rails.get q).lastSample ∧
    (t.monitor.rails.get q).pg = (s.monitor.rails.get q).pg

namespace State.SampleFrame

theorem refl (s : State) : s.SampleFrame s := ⟨⟨rfl, rfl, rfl⟩, rfl, rfl, rfl, rfl, fun _ => ⟨rfl, rfl⟩⟩

theorem trans {s t u : State} (h : s.SampleFrame t) (k : t.SampleFrame u) : s.SampleFrame u where
  toSameClock := h.toSameClock.trans k.toSameClock
  pending := k.pending.trans h.pending
  peers := k.peers.trans h.peers
  line := k.line.trans h.line
  receiver := k.receiver.trans h.receiver
  sample q := ⟨(k.sample q).1.trans (h.sample q).1, (k.sample q).2.trans (h.sample q).2⟩

theorem ofMoves {s t : State} (h : s.MovesTo t) : s.SampleFrame t :=
  ⟨h.sameClock, h.pending, h.peers, h.line, h.receiver, h.sample⟩

theorem queueRecord (s : State) (x : TimingRecord) : s.SampleFrame (s.queueRecord x) :=
  ofMoves (State.MovesTo.queueRecord s x)

theorem setMonitor {s : State} {r : RailIx} {m : Monitor} (hm : m.restarted = (s.monitor.rails.get r).restarted) :
    s.SampleFrame (s.setMonitor r m) := by
  refine ⟨⟨rfl, rfl, rfl⟩, rfl, rfl, rfl, rfl, fun q => ?_⟩
  by_cases e : q = r
  · subst e
    have sample := congrArg Monitor.lastSample hm
    have pg := congrArg Monitor.pg hm
    rw [State.setMonitor_monitor, Four.get_set_same]
    exact ⟨sample, pg⟩
  · rw [State.setMonitor_monitor, Four.get_set_other _ _ e]
    exact ⟨rfl, rfl⟩

theorem setRail (s : State) (r : RailIx) (x : Rail) : s.SampleFrame (s.setRail r x) :=
  ⟨⟨rfl, rfl, rfl⟩, rfl, rfl, rfl, rfl, fun _ => ⟨rfl, rfl⟩⟩

theorem enter (s : State) (r : RailIx) (st : RailState) : s.SampleFrame (s.enter r st) :=
  (setRail s r _).trans (setMonitor (by rfl))

theorem faultRail (s : State) (o : Occasion) (r : RailIx) (k : FaultKind) : s.SampleFrame (s.faultRail o r k) := by
  unfold State.faultRail
  split
  · exact refl s
  · rename_i c hc
    split
    · rw [State.enterFault_entered hc]
      have entered : s.SampleFrame (s.faultEntered c r k) := by
        refine ⟨⟨rfl, rfl, rfl⟩, rfl, rfl, rfl, rfl, fun q => ?_⟩
        simp only [State.faultEntered, Four.get_of, apply_ite Monitor.lastSample, apply_ite Monitor.pg, ite_self,
          and_self]
      exact entered.trans (ofMoves (State.settle_moves _ o))
    · exact refl s

theorem qualify {s : State} {r : RailIx} {c : RailConfig} (hc : s.fittedConfig r = some c)
    (hs : (s.rails.get r).state = .ramping) (o : Occasion) : s.SampleFrame (s.qualify o c r) := by
  have record := queueRecord s (s.rampRecord r)
  have movable := State.movable_queueRecord (s.rampRecord r)
    (State.movable_of hc (by rw [hs]; decide) (by rw [hs]; decide))
  unfold State.qualify
  refine (record.trans ?_).trans (ofMoves (State.settle_moves _ o))
  split
  · exact enter _ r .good
  · exact ofMoves (State.MovesTo.enterDraining c movable)

theorem discharged (s : State) (o : Occasion) (r : RailIx) : s.SampleFrame (s.discharged o r) :=
  ((queueRecord s _).trans (enter _ r .off)).trans (ofMoves (State.settle_moves _ o))

theorem counted (s : State) (r : RailIx) (n : Nat) : s.SampleFrame (s.counted r n) := setMonitor (by rfl)

theorem watchBackfeed (s : State) (o : Occasion) (c : RailConfig) (r : RailIx) (cls : SampleClass) :
    s.SampleFrame (s.watchBackfeed o c r cls) := by
  by_cases h : cls = .below
  · rw [h]
    exact counted s r 0
  · rw [State.watchBackfeed_above h]
    dsimp only
    split
    · exact (counted s r _).trans (faultRail _ o r .backfeed)
    · exact counted s r _

theorem supervisePg (s : State) (c : RailConfig) (r : RailIx) : s.SampleFrame (s.supervisePg c r).1 := by
  unfold State.supervisePg
  dsimp only
  split
  · exact refl s
  split
  · split
    · exact refl s
    split
    · exact refl s
    · exact setMonitor (by rfl)
  · split
    · exact (setMonitor (by rfl)).trans (queueRecord _ _)
    · exact refl s

theorem supervise (s : State) (o : Occasion) (c : RailConfig) (r : RailIx) (cls : SampleClass) :
    s.SampleFrame (s.supervise o c r cls) := by
  have input (n : Nat) := (counted s r n).trans (supervisePg _ c r)
  by_cases hl : c.pgUsed = true ∧ s.overdue (s.monitor.rails.get r).deglitch = true
  · rw [State.supervise_overdue hl.1 hl.2]
    exact faultRail s o r .pgLost
  have early : c.pgUsed = false ∨ s.overdue (s.monitor.rails.get r).deglitch = false := by
    simpa only [not_and_or, Bool.not_eq_true] using hl
  by_cases hw : cls = .inWindow ∨ (s.monitor.rails.get r).outside + 1 < c.persistence
  · rw [State.supervise_supplied early hw]
    dsimp only
    split
    · exact (input _).trans (faultRail _ o r .pgLost)
    · exact input _
  · obtain ⟨hn, hp⟩ := not_or.1 hw
    rw [State.supervise_window early hn (Nat.not_lt.1 hp)]
    exact (input _).trans (faultRail _ o r .window)

theorem actOnSample (s : State) (o : Occasion) (r : RailIx) : s.SampleFrame (s.actOnSample o r) := by
  cases hc : s.fittedConfig r with
  | none => rw [State.actOnSample_unfitted hc]; exact refl s
  | some c =>
    cases hs : (s.rails.get r).state with
    | off => rw [State.actOnSample_resting hc (.inl hs)]; exact watchBackfeed s o c r _
    | waiting => rw [State.actOnSample_resting hc (.inr (.inl hs))]; exact watchBackfeed s o c r _
    | settling => rw [State.actOnSample_resting hc (.inr (.inr hs))]; exact watchBackfeed s o c r _
    | ramping =>
      rw [State.actOnSample_ramping hc hs]
      split
      · exact faultRail s o r .rampTimeout
      split
      · exact qualify hc hs o
      · exact refl s
    | good => rw [State.actOnSample_up hc (.inl hs)]; exact supervise s o c r _
    | draining => rw [State.actOnSample_up hc (.inr hs)]; exact supervise s o c r _
    | falling =>
      rw [State.actOnSample_falling hc hs]
      split
      · exact faultRail s o r .dischargeTimeout
      split
      · exact discharged s o r
      · exact refl s
    | fault => rw [State.actOnSample_fault hc hs]; exact refl s

theorem actOnSamples (o : Occasion) (l : List RailIx) (s : State) :
    s.SampleFrame (l.foldl (fun v r => v.actOnSample o r) s) := by
  induction l generalizing s with
  | nil => exact refl s
  | cons r l ih => exact (actOnSample s o r).trans (ih _)

end State.SampleFrame

/-! ### SAMPLE (R52) -/

/-- The number of the sample instant, from the next one on, at which a SAMPLE commanded at `t` takes place. -/
def sampleIndex (next t : Nat) : Nat := (t - next + 3199) / 3200

theorem sampleInstant_eq (next t : Nat) : sampleInstant next t = next + 3200 * sampleIndex next t := by
  rw [Nat.mul_comm]
  rfl

/-- It is the least number of an instant that is not before `t`. -/
theorem sampleIndex_le_iff (next t j : Nat) : sampleIndex next t ≤ j ↔ t ≤ next + 3200 * j := by
  unfold sampleIndex
  omega

/-- Each rail stands once in every rail order. -/
theorem railOrder_perm (o : Occasion) : (railOrder o).Perm RailIx.all :=
  (List.perm_ext_iff_of_nodup (railOrder_nodup o) (by decide)).2 fun r =>
    iff_of_true (railOrder_mem o r) (RailIx.mem_all r)

theorem execSample_inReset {s : State} (h : s.startup.inReset ≠ none) (o : Occasion) (counts : Four (BitVec 12))
    (pg : Four Bool) : execSample o counts pg s = .next (s.after o) :=
  if_pos (Option.isSome_iff_ne_none.2 h)

/-- The state at sample instant `k` with the inputs stored, before any rail acts on them. -/
def State.sampledAt (s : State) (k : Nat) (counts : Four (BitVec 12)) (pg : Four Bool) : State :=
  { s with
    now := s.monitor.nextSample + 3200 * k
    monitor := {
      nextSample := s.monitor.nextSample + 3200 * (k + 1)
      rails := Four.of (fun r => { s.monitor.rails.get r with lastSample := counts.get r, pg := pg.get r }) } }

theorem execSample_sampledAt {s : State} (h : s.startup.inReset = none) (o : Occasion) (counts : Four (BitVec 12))
    (pg : Four Bool) :
    execSample o counts pg s = .next ((railOrder o).foldl (fun v r => v.actOnSample o r)
      (s.sampledAt (sampleIndex s.monitor.nextSample (s.now + o.wait)) counts pg)) := by
  have running : ¬ (s.after o).startup.inReset.isSome = true := by
    rw [State.after_startup, h]
    exact Bool.false_ne_true
  have instant := Nat.max_eq_right ((sampleIndex_le_iff s.monitor.nextSample (s.now + o.wait) _).1 le_rfl)
  have next (k : Nat) : s.monitor.nextSample + 3200 * k + Config.samplePeriod = s.monitor.nextSample + 3200 * (k + 1) :=
    Nat.add_assoc ..
  refine (if_neg running).trans ?_
  simp only [State.notBefore, State.after_now, State.after_monitor, instant, sampleInstant_eq, next]
  rfl

/-- Settles O26: the instant is the least of the grid that is not before the command, and what a rail does about its
sample neither moves the clock nor changes what is stored. -/
theorem sampleStoresAllFour : Obligations.SampleStoresAllFour := by
  intro o counts pg s
  refine ⟨fun h => execSample_inReset h o counts pg, fun h => ?_⟩
  let k := sampleIndex s.monitor.nextSample (s.now + o.wait)
  have frame := State.SampleFrame.actOnSamples o (railOrder o) (s.sampledAt k counts pg)
  refine ⟨railOrder o, _, s.sampledAt k counts pg, k, railOrder_perm o, rfl,
    (sampleIndex_le_iff _ _ k).1 le_rfl, fun j => (sampleIndex_le_iff _ _ j).2, execSample_sampledAt h o counts pg, rfl,
    fun r => ?_, frame.now, frame.nextSample, frame.pending, frame.startup, frame.peers, frame.line, frame.receiver⟩
  simpa only [State.sampledAt, Four.get_of] using frame.sample r

end Sys2Proof.Machine

/-! Proofs of the invariants: the zones' trip records (`State.zonesSound`), the counts of the line status record and the
misses of the peer entries (`State.countsSound`, `State.missesSound`). -/

namespace Sys2Proof.Machine
open Sys2Proof

/-! ### Trip records (R72) -/

/-- `State.zonesSound` for one zone entry. -/
def Zone.sound (e : Zone) : Prop := e.record.isSome = true → e.condition = .tripped

theorem State.zonesSound_iff (s : State) : s.zonesSound ↔ ∀ z, (s.zones.entries.get z).sound := Iff.rfl

theorem Zone.sound_of_empty {e : Zone} (h : e.record = none) : e.sound := by
  intro hr
  rw [h] at hr
  cases hr

theorem Zone.sound_of_tripped {e : Zone} (h : e.condition = .tripped) : e.sound := fun _ => h

/-- By comparison a zone loses its record with its trip (Table 23). -/
theorem compareZone_sound {e : Zone} (h : e.sound) (g : Byte) (tripped : Bool) (part : Option TripRecord) :
    (compareZone e g tripped part).entry.sound := by
  unfold compareZone
  split
  · split
    · exact Zone.sound_of_tripped rfl
    · exact Zone.sound_of_empty rfl
  · split
    · cases hc : e.condition with
      | normal => exact Zone.sound_of_tripped rfl
      | tripped => cases part <;> exact Zone.sound_of_tripped (by simp only [ZoneOutcome.unchanged, hc])
    · exact h

/-- By adoption too (R91). -/
theorem adoptZone_sound (e : Zone) (g : Byte) (tripped : Bool) (part : Option TripRecord) :
    (adoptZone e g tripped part).entry.sound := by
  cases tripped
  · exact Zone.sound_of_empty rfl
  · exact Zone.sound_of_tripped rfl

theorem State.zoneOutcome_sound {s : State} {f : Frame} {z : ZoneIx} (h : (s.zones.entries.get z).sound) :
    (s.zoneOutcome f z).entry.sound := by
  unfold State.zoneOutcome
  dsimp only
  split
  · exact adoptZone_sound _ _ _ _
  · exact compareZone_sound h _ _ _

theorem State.MovesTo.zonesSound {s t : State} (h : s.MovesTo t) (hs : s.zonesSound) : t.zonesSound := by
  unfold State.zonesSound
  rw [h.zones]
  exact hs

theorem State.settle_zonesSound {s : State} (o : Occasion) (h : s.zonesSound) : (s.settle o).zonesSound :=
  (s.settle_moves o).zonesSound h

/-- Taking the view changes what is demanded of the zones alone (R76). -/
theorem State.takeView_zonesSound {s : State} (v : View) (h : s.zonesSound) : (s.takeView v).zonesSound := by
  cases v with
  | prerequisites | holds => exact h
  | demand =>
    rw [State.zonesSound_iff] at h ⊢
    intro z
    simp only [State.takeView, Eight.get_of]
    exact h z

theorem State.judge_zonesSound {s : State} (o : Occasion) (v : View) (h : s.zonesSound) : (s.judge o v).zonesSound :=
  State.settle_zonesSound o (State.takeView_zonesSound v h)

theorem State.judgeAll_zonesSound {s : State} (o : Occasion) (h : s.zonesSound) : (s.judgeAll o).zonesSound :=
  State.judgeAll_keeps_of (P := State.zonesSound) (fun _ v => State.judge_zonesSound o v) h

theorem State.rejudge_zonesSound {s : State} (h : s.zonesSound) : s.rejudge.zonesSound :=
  State.takeView_zonesSound _ (State.takeView_zonesSound _ (State.takeView_zonesSound _ h))

theorem State.beginLoad_zonesSound {s : State} (straps : BitVec 5) (h : s.zonesSound) :
    (s.beginLoad straps).zonesSound := State.rejudge_zonesSound h

/-- One zone entry changes. -/
theorem State.setZone_zonesSound {s : State} {z : ZoneIx} {e : Zone} (he : e.sound) (h : s.zonesSound) :
    (s.setZone z e).zonesSound := by
  rw [State.zonesSound_iff] at h ⊢
  intro y
  rw [State.setZone_zones, Eight.get_set]
  split
  · exact he
  · exact h y

theorem State.faultRail_zonesSound {s : State} (o : Occasion) (r : RailIx) (k : FaultKind) (h : s.zonesSound) :
    (s.faultRail o r k).zonesSound := by
  unfold State.faultRail
  split
  · exact h
  · rename_i c hc
    split
    · unfold State.zonesSound
      rw [(State.enterFault_settle hc k o).zones, State.faultEntered]
      cases c.trip
      · exact h
      · exact State.setZone_zonesSound (z := c.zone) (e := s.trippedBy c.zone r k) (Zone.sound_of_tripped rfl) h
    · exact h

theorem State.clear_zonesSound {s : State} (o : Occasion) (z : ZoneIx) (h : s.zonesSound) :
    (s.clear o z).zonesSound := by
  unfold State.clear
  refine State.settle_zonesSound o ?_
  rw [State.releaseFaults_eq]
  exact State.setZone_zonesSound (Zone.sound_of_empty rfl) h

theorem State.takeZoneBytes_zonesSound {s : State} (o : Occasion) (f : Frame) (h : s.zonesSound) :
    (s.takeZoneBytes o f).zonesSound := by
  unfold State.takeZoneBytes
  refine State.settle_zonesSound o ?_
  rw [State.takeDownAll_eq, State.releaseFaults_eq, State.setFlagIf_eq, State.setFlagIf_eq, State.zonesSound_iff]
  intro z
  simp only [Eight.get_of]
  exact State.zoneOutcome_sound (h z)

/-- The zones as a reset and a warm restart leave them hold no record (R100). -/
theorem zonesSound_of_cleared {s : State} (h : ∀ z, s.zones.entries.get z = Zone.cleared) : s.zonesSound := by
  rw [State.zonesSound_iff]
  intro z
  rw [h z]
  exact Zone.sound_of_empty rfl

/-- Every event leaves a record to a TRIPPED zone alone. -/
theorem State.Event.zonesSound {s t : State} (e : s.Event t) (h : s.zonesSound) : t.zonesSound := by
  have settled {u : State} (o : Occasion) (hu : u.zonesSound) : (u.settle o).zonesSound :=
    State.settle_zonesSound o hu
  have queued (x : TimingRecord) : (s.queueRecord x).zonesSound := (State.MovesTo.queueRecord s x).zonesSound h
  cases e with
  | dequeued | clock | port | recordTaken | loadFailed | sampled | counted | deglitchStarts | ownSlotEnds | slotBegins
  | frameBuilt | cutOff | collisionCounted | ownFrameEnds | silenceSet | reception | errorCounted
  | duplicateInMuted => exact h
  | resetEnds cause straps =>
    exact State.beginLoad_zonesSound straps (zonesSound_of_cleared fun z => by cases z <;> rfl)
  | resetBegins cause level => exact State.rejudge_zonesSound (s := State.workOutDemand _) h
  | loaded o image img =>
    rw [State.loadSucceeds_eq, State.enterListen_eq]
    exact settled o (State.rejudge_zonesSound h)
  | demandSet o mask => exact State.judge_zonesSound o _ h
  | pinChanged pin => cases pin <;> exact h
  | pinTaken o pin => cases pin <;> exact State.judge_zonesSound o _ h
  | zoneCleared o z => exact State.clear_zonesSound o z h
  | resumed o =>
    rw [State.enterListen_eq]
    exact settled o h
  | restartAccepted o =>
    unfold State.acceptRestart
    rw [State.takeDownAll_eq]
    exact settled o h
  | reloaded straps => exact State.beginLoad_zonesSound straps h
  | reinitialised straps =>
    rw [State.setFlagIf_eq]
    exact State.beginLoad_zonesSound straps (zonesSound_of_cleared fun z => by cases z <;> rfl)
  | dropoutEnds r => exact (State.MovesTo.queueRecord _ _).zonesSound h
  | faulted o r k => exact State.faultRail_zonesSound o r k h
  | qualified o r c hc hs =>
    unfold State.qualify
    have hm := State.movable_queueRecord (s.rampRecord r) (State.movable_of hc (by simp [hs]) (by simp [hs]))
    refine settled o ?_
    split
    · exact queued _
    · exact (State.MovesTo.enterDraining c hm).zonesSound (queued _)
  | discharged o r => exact settled o (queued (s.dischargeRecord r))
  | settleExpired o r c => exact settled o h
  | drainForced o r c => exact settled o (queued _)
  | drainContinued r c => exact queued _
  | missChecked o k => exact State.missCheck_keeps_of k h fun _ => State.judgeAll_zonesSound o h
  | listenCounted o => exact State.countListen_keeps_of h (fun _ => h) fun _ _ _ => settled o h
  | listens o =>
    rw [State.enterListen_eq]
    exact settled o h
  | muted o k =>
    rw [State.enterMuted_eq]
    exact settled o h
  | coldStarted o => exact settled o h
  | timingTaken f t0 => exact State.takeTiming_keeps_of f t0 h (fun _ => h) fun _ => h
  | reportTaken o f => exact State.takeReport_keeps_of f fun _ => State.judgeAll_zonesSound o h
  | zoneBytesTaken o f => exact State.takeZoneBytes_zonesSound o f h

/-! ### Misses and counts (R107, Table 37) -/

/-- `State.missesSound` for one peer entry. -/
def Peer.missesFit (p : Peer) : Prop := p.misses ≤ 3 ∧ (p.presence = .present → p.misses ≤ 2)

theorem State.missesSound_iff (s : State) : s.missesSound ↔ ∀ p ∈ s.peers, p.missesFit := Iff.rfl

/-- One entry of the peer table changes. -/
theorem State.updatePeer_missesSound {s : State} {n : Nat} {g : Peer → Peer}
    (hg : ∀ p, s.peers[n]? = some p → p.missesFit → (g p).missesFit) (h : s.missesSound) :
    (s.updatePeer n g).missesSound := by
  rw [State.missesSound_iff] at h ⊢
  intro p hp
  obtain ⟨i, hi⟩ := List.mem_iff_getElem?.1 hp
  rw [State.updatePeer_peers, List.getElem?_modify] at hi
  obtain ⟨q, hq, e⟩ := Option.map_eq_some_iff.1 hi
  have fits : q.missesFit := h q (List.mem_of_getElem? hq)
  subst e
  split
  · rename_i k
    exact hg q (k ▸ hq) fits
  · exact fits

theorem Peer.taking_missesFit (f : Frame) (p : Peer) : (p.taking f).missesFit :=
  ⟨Nat.zero_le _, fun _ => Nat.zero_le _⟩

theorem Peer.built_missesFit (f : Frame) (p : Peer) : (p.built f).missesFit :=
  ⟨Nat.zero_le _, fun _ => Nat.zero_le _⟩

/-- At its third miss a PRESENT entry becomes LOST (R107). -/
theorem Peer.missed_missesFit {p : Peer} (hp : p.presence = .present) (h : p.missesFit) : p.missed.missesFit := by
  have few : p.misses ≤ 2 := h.2 hp
  refine ⟨Nat.succ_le_succ few, fun hm => ?_⟩
  by_contra third
  have lost : p.missed.presence = .lost := if_pos (by simp only [Peer.missed] at third; omega)
  rw [lost] at hm
  cases hm

theorem State.ownEntryLost_missesSound {s : State} (h : s.missesSound) : s.ownEntryLost.missesSound := by
  unfold State.ownEntryLost
  split
  · refine State.updatePeer_missesSound (fun p _ hp => ⟨hp.1, fun k => ?_⟩) h
    cases k
  · exact h

/-- The counts of the line status record and the misses of the peer entries keep their ranges. -/
def State.rangesSound (s : State) : Prop := s.countsSound ∧ s.missesSound

theorem State.rangesSound_congr {s t : State} (hr : t.receiver = s.receiver) (hp : t.peers = s.peers)
    (h : s.rangesSound) : t.rangesSound := by
  unfold State.rangesSound State.countsSound State.missesSound
  rw [hr, hp]
  exact h

theorem State.RailsEnter.rangesSound {s t : State} (h : s.RailsEnter t) (hs : s.rangesSound) : t.rangesSound :=
  State.rangesSound_congr h.receiver h.peers hs

theorem State.judge_rangesSound {s : State} (o : Occasion) (v : View) (h : s.rangesSound) : (s.judge o v).rangesSound :=
  have hv := s.takeView_sameButView v
  (State.RailsEnter.settle _ o).rangesSound (State.rangesSound_congr hv.receiver hv.peers h)

theorem State.judgeAll_rangesSound {s : State} (o : Occasion) (h : s.rangesSound) : (s.judgeAll o).rangesSound :=
  State.judgeAll_keeps_of (P := State.rangesSound) (fun _ v => State.judge_rangesSound o v) h

theorem saturate_le (n : Nat) : saturate n ≤ 255 := Nat.min_le_left _ _

theorem State.missCheck_rangesSound {s : State} (o : Occasion) (k : Nat) (h : s.rangesSound) :
    (s.missCheck o k).rangesSound := by
  unfold State.missCheck
  split
  · rename_i p hk
    split
    · rename_i hp
      refine State.judgeAll_rangesSound o ?_
      rw [State.setFlagIf_eq]
      refine ⟨h.1, State.updatePeer_missesSound (fun q hq => ?_) h.2⟩
      obtain rfl : p = q := Option.some.inj (hk.symm.trans hq)
      exact Peer.missed_missesFit hp.1
    · exact h
  · exact h

theorem State.takeTiming_rangesSound {s : State} (f : Frame) (t0 : Nat) (h : s.rangesSound) :
    (s.takeTiming f t0).rangesSound := by
  obtain ⟨⟨errors, collisions, -, consecutive⟩, misses⟩ := id h
  unfold State.takeTiming
  dsimp only
  split
  · split
    · exact h
    · exact ⟨⟨errors, collisions, saturate_le _, consecutive⟩, misses⟩
  · exact h

theorem State.enterListen_rangesSound {s : State} (h : s.rangesSound) : s.enterListen.rangesSound := by
  rw [State.enterListen_eq]
  exact ⟨h.1, State.ownEntryLost_missesSound h.2⟩

theorem State.enterMuted_rangesSound {s : State} (k : MuteCause) (h : s.rangesSound) :
    (s.enterMuted k).rangesSound := by
  rw [State.enterMuted_eq]
  exact ⟨h.1, State.ownEntryLost_missesSound h.2⟩

/-- A loaded table has missed nothing yet (R117). -/
theorem State.withImage_rangesSound {s : State} (img : Image) (h : s.rangesSound) : (s.withImage img).rangesSound := by
  refine ⟨h.1, fun p hp => ?_⟩
  obtain rfl : p = Peer.cleared := List.eq_of_mem_replicate hp
  exact ⟨Nat.zero_le _, fun _ => Nat.zero_le _⟩

/-- Without entries there are no misses: all three judgements and a load leave the counts (R152). -/
theorem State.rejudge_rangesSound {s : State} (hc : s.countsSound) (hp : s.peers = []) : s.rejudge.rangesSound := by
  refine State.rangesSound_congr (s := s) rfl rfl ⟨hc, fun p h => ?_⟩
  rw [hp] at h
  exact absurd h List.not_mem_nil

theorem State.beginLoad_rangesSound {s : State} (straps : BitVec 5) (h : s.countsSound) :
    (s.beginLoad straps).rangesSound := State.rejudge_rangesSound h rfl

/-- Every event keeps the counts and the misses in their ranges. -/
theorem State.Event.rangesSound {s t : State} (e : s.Event t) (h : s.rangesSound) : t.rangesSound := by
  have settled {u : State} (o : Occasion) (hu : u.rangesSound) : (u.settle o).rangesSound :=
    (State.RailsEnter.settle u o).rangesSound hu
  obtain ⟨⟨errors, collisions, outOfSlot, consecutive⟩, misses⟩ := id h
  cases e with
  | dequeued | clock | port | recordTaken | loadFailed | sampled | counted | deglitchStarts | ownSlotEnds | silenceSet
  | reception | duplicateInMuted => exact h
  | resetEnds cause straps => exact State.beginLoad_rangesSound straps reset_countsSound
  | resetBegins cause level =>
    have begun : (s.enterReset cause).rangesSound := State.rejudge_rangesSound h.1 rfl
    exact begun
  | reloaded straps => exact State.beginLoad_rangesSound straps h.1
  | reinitialised straps =>
    rw [State.setFlagIf_eq]
    exact State.beginLoad_rangesSound straps ⟨errors, collisions, outOfSlot, Nat.zero_le _⟩
  | loaded o image img =>
    rw [State.loadSucceeds_eq]
    have listens := State.enterListen_rangesSound (State.withImage_rangesSound img h)
    exact settled o (State.rangesSound_congr (s := (s.withImage img).enterListen) rfl rfl listens)
  | demandSet o | pinTaken o => exact State.judge_rangesSound o _ h
  | pinChanged pin => exact h
  | zoneCleared o z => exact (State.RailsEnter.clear s o z).rangesSound h
  | resumed o =>
    refine settled o ?_
    exact ⟨⟨errors, collisions, outOfSlot, Nat.zero_le _⟩, (State.enterListen_rangesSound h).2⟩
  | restartAccepted o => exact settled o ((State.RailsEnter.takeDownAll _ _ _).rangesSound h)
  | dropoutEnds => exact (State.RailsEnter.queueRecord _ _).rangesSound h
  | faulted o r k => exact (State.RailsEnter.faultRail s o r k).rangesSound h
  | qualified o r c hc => exact (State.RailsEnter.qualify hc o).rangesSound h
  | discharged o r c hc => exact (State.RailsEnter.discharged hc o).rangesSound h
  | settleExpired o r c hc => exact settled o ((State.RailsEnter.enterRamping hc).rangesSound h)
  | drainForced o r c t hc => exact (State.RailsEnter.drainForced hc _ o).rangesSound h
  | drainContinued r c => exact (State.RailsEnter.queueRecord s _).rangesSound h
  | missChecked o k => exact State.missCheck_rangesSound o k h
  | slotBegins k => exact ⟨h.1, State.updatePeer_missesSound (fun _ _ hp => hp) misses⟩
  | listenCounted o => exact State.countListen_keeps_of h (fun _ => h) fun _ _ _ => settled o h
  | frameBuilt img f => exact ⟨h.1, State.updatePeer_missesSound (fun p _ _ => p.built_missesFit f) misses⟩
  | cutOff => exact ⟨⟨errors, saturate_le _, outOfSlot, consecutive⟩, misses⟩
  | collisionCounted => exact ⟨⟨errors, collisions, outOfSlot, Nat.min_le_left _ _⟩, misses⟩
  | listens o => exact settled o (State.enterListen_rangesSound h)
  | muted o k => exact settled o (State.enterMuted_rangesSound k h)
  | ownFrameEnds => exact ⟨⟨errors, collisions, outOfSlot, Nat.zero_le _⟩, misses⟩
  | coldStarted o => exact settled o h
  | errorCounted => exact ⟨⟨saturate_le _, collisions, outOfSlot, consecutive⟩, misses⟩
  | timingTaken f t0 => exact State.takeTiming_rangesSound f t0 h
  | reportTaken o f =>
    exact State.takeReport_keeps_of f fun _ => State.judgeAll_rangesSound o
      ⟨h.1, State.updatePeer_missesSound (fun p _ _ => p.taking_missesFit f) misses⟩
  | zoneBytesTaken o f => exact (State.RailsEnter.takeZoneBytes s o f).rangesSound h

/-- Settles O57: every event keeps a record to a TRIPPED zone, and every event keeps the counts and misses together. -/
theorem stepKeepsRecordsAndCountsInRange : Obligations.StepKeepsRecordsAndCountsInRange :=
  ⟨fun _ _ hs h => step_keeps (fun _ _ e => e.zonesSound) h hs,
    fun _ _ hs h => step_keeps (P := State.rangesSound) (fun _ _ e => e.rangesSound) h hs⟩

end Sys2Proof.Machine

/-! Proofs about the zone table: the comparison of generations (Table 23), the order and the merging of trip records,
and the trip part of a frame. -/

namespace Sys2Proof.Machine
open Sys2Proof

/-! ### Generations and what a frame does to a zone (R78, R87 to R91) -/

theorem newerGeneration_iff (g' g : Byte) :
    newerGeneration g' g = true ↔ 1 ≤ (g' - g).toNat ∧ (g' - g).toNat ≤ 127 := by
  simp [newerGeneration]

theorem newerGeneration_self (g : Byte) : newerGeneration g g = false := by simp [newerGeneration]

/-- A generation one ahead is newer, and the one it follows is older (R78). -/
theorem newerGeneration_succ (g : Byte) : newerGeneration (g + 1) g = true ∧ newerGeneration g (g + 1) = false := by
  have ahead : (g + 1 - g).toNat = 1 := by bv_omega
  have behind : (g - (g + 1)).toNat = 255 := by bv_omega
  rw [newerGeneration, newerGeneration, ahead, behind]
  decide

section
variable {e : Zone} {g : Byte} {part : Option TripRecord}

theorem compareZone_newer_normal (h : newerGeneration g e.generation = true) :
    compareZone e g false part =
      { entry := { e with generation := g, condition := .normal, record := none }, released := true, moved := false,
        trippedFlag := false, clearedFlag := true } := by
  simp [compareZone, h]

theorem compareZone_newer_tripped (h : newerGeneration g e.generation = true) :
    compareZone e g true part =
      { entry := { e with generation := g, condition := .tripped, record := part }, released := true, moved := true,
        trippedFlag := true, clearedFlag := false } := by
  simp [compareZone, h]

theorem compareZone_same_normal : compareZone e e.generation false part = ZoneOutcome.unchanged e := by
  simp [compareZone, newerGeneration_self]

theorem compareZone_same_trips (h : e.condition = .normal) :
    compareZone e e.generation true part =
      { entry := { e with condition := .tripped, record := part }, released := false, moved := true,
        trippedFlag := true, clearedFlag := false } := by
  simp [compareZone, newerGeneration_self, h]

theorem compareZone_same_tripped (h : e.condition = .tripped) :
    compareZone e e.generation true part =
      match part with
      | some t => ZoneOutcome.unchanged { e with record := some (mergeRecord e.record t) }
      | none => ZoneOutcome.unchanged e := by
  cases part <;> simp [compareZone, newerGeneration_self, h]

theorem compareZone_older (h : newerGeneration g e.generation = false) (hg : g ≠ e.generation) (tripped : Bool) :
    compareZone e g tripped part = ZoneOutcome.unchanged e := by
  simp [compareZone, h, hg]

end

/-- Settles O47: the clear's generation is newer for the trip's, whichever comes first. -/
theorem clearAndTripConverge : Obligations.ClearAndTripConverge := by
  intro e part none_ hc hr
  obtain ⟨ahead, behind⟩ := newerGeneration_succ e.generation
  have older : e.generation ≠ e.generation + 1 := fun k => by
    rw [← k, newerGeneration_self] at ahead
    cases ahead
  have clears (x : Zone) (hx : x.generation = e.generation) (p : Option TripRecord) :
      (compareZone x (e.generation + 1) false p).entry =
        { x with generation := e.generation + 1, condition := .normal, record := none } := by
    rw [compareZone_newer_normal (by rw [hx]; exact ahead)]
  have ignores (x : Zone) (hx : x.generation = e.generation + 1) (p : Option TripRecord) :
      (compareZone x e.generation true p).entry = x := by
    rw [compareZone_older (by rw [hx]; exact behind) (by rw [hx]; exact older)]
    rfl
  dsimp only
  constructor
  · rw [compareZone_same_trips hc, clears, hc, hr]
    rfl
  · rw [clears e rfl, ignores, hc, hr]
    rfl

/-! ### The range check of a trip part (R85) -/

/-- The five fault kinds have the codes 1 to 5 (Table 9). -/
theorem FaultKind.ofCode_eq_none_iff (n : Nat) : FaultKind.ofCode n = Option.none ↔ ¬ (1 ≤ n ∧ n ≤ 5) := by
  by_cases h : n ≤ 5
  · interval_cases n <;> simp [FaultKind.ofCode]
  · have unknown : FaultKind.ofCode n = Option.none := by
      unfold FaultKind.ofCode
      split <;> first | omega | rfl
    simp [unknown, h]

theorem FaultKind.code_of_ofCode {n : Nat} {k : FaultKind} (h : FaultKind.ofCode n = some k) : k.code = n := by
  unfold FaultKind.ofCode at h
  split at h <;> cases h <;> rfl

theorem ZoneIx.ofIndex_toNat (n : Nat) : (ZoneIx.ofIndex n).toNat = n % 8 := by
  have h : n % 8 < 8 := Nat.mod_lt _ (by decide)
  unfold ZoneIx.ofIndex
  generalize n % 8 = m at h
  interval_cases m <;> rfl

/-- What R85 asks of a trip part in a shelf of `n` stations, under trip mask `mask`. -/
def TripPart.inRange (p : TripPart) (n : Nat) (mask : Byte) : Prop :=
  p.zone.toNat ≤ 7 ∧ p.station.toNat < n ∧ p.slot.toNat < n ∧ p.offset.toNat ≤ 449 ∧
    1 ≤ p.kindCode.toNat ∧ p.kindCode.toNat ≤ 5 ∧ mask.getLsbD p.zone.toNat = true

/-- The record that a trip part of fault kind `k` carries. -/
def TripPart.record (p : TripPart) (k : FaultKind) : TripRecord :=
  { station := p.station.toNat, rail := p.rail, kind := k, cycle := p.cycle, slot := p.slot.toNat,
    offset := p.offset.toNat }

theorem TripPart.accepted_of_inRange {p : TripPart} {n : Nat} {mask : Byte} {k : FaultKind} (h : p.inRange n mask)
    (hk : FaultKind.ofCode p.kindCode.toNat = some k) :
    p.accepted n mask = some (ZoneIx.ofIndex p.zone.toNat, p.record k) := by
  obtain ⟨hz, hst, hsl, ho, -, -, hm⟩ := h
  have index : (ZoneIx.ofIndex p.zone.toNat).toNat = p.zone.toNat := by rw [ZoneIx.ofIndex_toNat]; omega
  have fits : ¬ (7 < p.zone.toNat ∨ n ≤ p.station.toNat ∨ n ≤ p.slot.toNat ∨ 449 < p.offset.toNat ∨
      names mask (ZoneIx.ofIndex p.zone.toNat) = false) := by
    rw [names, index, hm]
    simp only [Bool.true_eq_false, or_false]
    omega
  simp only [TripPart.accepted, hk, if_neg fits, TripPart.record]

theorem TripPart.accepted_of_not_inRange {p : TripPart} {n : Nat} {mask : Byte} (h : ¬ p.inRange n mask) :
    p.accepted n mask = none := by
  unfold TripPart.accepted
  cases hk : FaultKind.ofCode p.kindCode.toNat with
  | none => rfl
  | some k =>
    have kind : 1 ≤ p.kindCode.toNat ∧ p.kindCode.toNat ≤ 5 := by
      by_contra hn
      rw [(FaultKind.ofCode_eq_none_iff _).2 hn] at hk
      cases hk
    refine if_pos ?_
    by_contra hn
    simp only [not_or, not_lt, not_le, Bool.not_eq_false] at hn
    obtain ⟨hz, hst, hsl, ho, hm⟩ := hn
    rw [names, ZoneIx.ofIndex_toNat, Nat.mod_eq_of_lt (by omega)] at hm
    exact h ⟨hz, hst, hsl, ho, kind.1, kind.2, hm⟩

/-- Settles O53: the fault kind has a code of the five exactly where the check finds one. -/
theorem tripPartRangeCheck : Obligations.TripPartRangeCheck := by
  refine fun p n mask => ⟨TripPart.accepted_of_not_inRange, fun h => ?_⟩
  obtain ⟨hz, -, -, -, low, high, -⟩ := id h
  obtain ⟨k, hk⟩ := Option.ne_none_iff_exists'.1 fun hn => (FaultKind.ofCode_eq_none_iff _).1 hn ⟨low, high⟩
  refine ⟨_, _, TripPart.accepted_of_inRange h hk, ?_, rfl, rfl, FaultKind.code_of_ofCode hk, rfl, rfl, rfl⟩
  rw [ZoneIx.ofIndex_toNat]
  omega

/-! ### The order of trip records and their merging (R80, R81) -/

theorem TripRecord.earlier_iff (a b : TripRecord) :
    a.earlier b = true ↔
      (1 ≤ (b.cycle - a.cycle).toNat ∧ (b.cycle - a.cycle).toNat ≤ 32767) ∨
      (a.cycle = b.cycle ∧ a.slot < b.slot) ∨
      (a.cycle = b.cycle ∧ a.slot = b.slot ∧ a.offset < b.offset) ∨
      (a.cycle = b.cycle ∧ a.slot = b.slot ∧ a.offset = b.offset ∧ a.station < b.station) ∨
      (a.cycle = b.cycle ∧ a.slot = b.slot ∧ a.offset = b.offset ∧ a.station = b.station ∧
        a.rail.toNat < b.rail.toNat) := by
  simp only [TripRecord.earlier, cycleAhead, Bool.or_eq_true, Bool.and_eq_true, beq_iff_eq, decide_eq_true_eq,
    and_or_left]

/-- How far one cycle is ahead of another gives how far the other is behind (R123). -/
theorem cycle_sub_toNat (a b : Half) : (a - b).toNat = (65536 - (b - a).toNat) % 65536 := by bv_omega

theorem cycle_eq_iff (a b : Half) : a = b ↔ (b - a).toNat = 0 := by
  constructor
  · rintro rfl
    simp
  · intro h
    bv_omega

/-- No two records are each earlier than the other. -/
theorem TripRecord.earlier_asymm {a b : TripRecord} (h : a.earlier b = true) : b.earlier a = false := by
  rw [Bool.eq_false_iff, ne_eq]
  rw [TripRecord.earlier_iff, cycle_eq_iff] at *
  rw [cycle_sub_toNat a.cycle b.cycle]
  omega

theorem TripRecord.earlier_irrefl (a : TripRecord) : a.earlier a = false := by
  cases h : a.earlier a with
  | false => rfl
  | true => exact h.symm.trans (TripRecord.earlier_asymm h)

/-- Cycles 32,768 apart are not ordered. -/
theorem TripRecord.earlier_opposite {a b : TripRecord} (h : (b.cycle - a.cycle).toNat = 32768) :
    a.earlier b = false := by
  rw [Bool.eq_false_iff, ne_eq, TripRecord.earlier_iff, cycle_eq_iff]
  omega

/-- Two records that agree in shelf time, station and rail are the same fault. -/
theorem TripRecord.earlier_sameFault {a b : TripRecord} (hc : a.cycle = b.cycle) (hs : a.slot = b.slot)
    (ho : a.offset = b.offset) (hst : a.station = b.station) (hr : a.rail = b.rail) : a.earlier b = false := by
  rw [Bool.eq_false_iff, ne_eq, TripRecord.earlier_iff, (cycle_eq_iff _ _).1 hc, hr]
  omega

/-- A merge leaves the record that arrives or the one held. -/
theorem mergeRecord_cases (held : Option TripRecord) (t : TripRecord) :
    mergeRecord held t = t ∨ held = some (mergeRecord held t) := by
  cases held with
  | none => exact .inl rfl
  | some h =>
    simp only [mergeRecord]
    split
    · exact .inl rfl
    · exact .inr rfl

theorem mergeRecord_of_earlier {x : TripRecord} {held : Option TripRecord}
    (h : ∀ y, held = some y → y ≠ x → x.earlier y = true) : mergeRecord held x = x := by
  cases held with
  | none => rfl
  | some y =>
    simp only [mergeRecord]
    split
    · rfl
    · rename_i late
      by_contra hne
      exact late (h y rfl hne)

theorem mergeRecord_of_later {x t : TripRecord} (h : t ≠ x → x.earlier t = true) : mergeRecord (some x) t = x := by
  by_cases e : t = x
  · rw [e, mergeRecord, TripRecord.earlier_irrefl]
    rfl
  · rw [mergeRecord, TripRecord.earlier_asymm (h e)]
    rfl

/-- The record held after records `l` have been merged, one after another, with the one held. -/
def mergeRecords (held : Option TripRecord) (l : List TripRecord) : Option TripRecord :=
  l.foldl (fun held t => some (mergeRecord held t)) held

theorem mergeRecords_of_later {x : TripRecord} {l : List TripRecord} (h : ∀ y ∈ l, y ≠ x → x.earlier y = true) :
    mergeRecords (some x) l = some x := by
  induction l with
  | nil => rfl
  | cons t l ih =>
    have first : mergeRecord (some x) t = x := mergeRecord_of_later (h t List.mem_cons_self)
    rw [mergeRecords, List.foldl_cons, first]
    exact ih fun y hy => h y (List.mem_cons_of_mem _ hy)

/-- The earliest record of all survives the merging, whatever is held and in whatever order they arrive. -/
theorem mergeRecords_earliest {x : TripRecord} {l : List TripRecord} {held : Option TripRecord} (hx : x ∈ l)
    (h : ∀ y ∈ l, y ≠ x → x.earlier y = true) (hh : ∀ y, held = some y → y ≠ x → x.earlier y = true) :
    mergeRecords held l = some x := by
  induction l generalizing held with
  | nil => exact absurd hx List.not_mem_nil
  | cons t l ih =>
    have rest (y : TripRecord) (hy : y ∈ l) : y ≠ x → x.earlier y = true := h y (List.mem_cons_of_mem _ hy)
    rw [mergeRecords, List.foldl_cons]
    by_cases e : t = x
    · rw [e, mergeRecord_of_earlier hh]
      exact mergeRecords_of_later rest
    · refine ih ((List.mem_cons.1 hx).resolve_left (Ne.symm e)) rest fun y hy => ?_
      rcases mergeRecord_cases held t with k | k
      · obtain rfl : t = y := k.symm.trans (Option.some.inj hy)
        exact h t List.mem_cons_self
      · exact hh y (k.trans hy)

/-- A record of station 0, rail 0, slot 0 and offset 0 in the cycle given. -/
def recordInCycle (c : Half) : TripRecord :=
  { station := 0, rail := .r0, kind := .rampTimeout, cycle := c, slot := 0, offset := 0 }

/-- Settles O48: the earliest of all by induction on the records; the ring is three cycles 21,845 and 21,846 apart. -/
theorem tripRecordsAreOrderedAndMerged : Obligations.TripRecordsAreOrderedAndMerged := by
  refine ⟨fun a b => ⟨TripRecord.earlier_iff a b, fun hc hs ho hst hr => ?_, fun h => ?_, fun h => ?_⟩,
    fun l x hx h => mergeRecords_earliest hx h fun _ hn => (by cases hn),
    recordInCycle 0x0000, recordInCycle 0x5555, recordInCycle 0xAAAA, by decide, by decide, by decide, by decide⟩
  · exact ⟨TripRecord.earlier_sameFault hc hs ho hst hr,
      TripRecord.earlier_sameFault hc.symm hs.symm ho.symm hst.symm hr.symm⟩
  · refine ⟨TripRecord.earlier_opposite h, TripRecord.earlier_opposite ?_⟩
    rw [cycle_sub_toNat, h]
  · have late := TripRecord.earlier_asymm h.1
    rw [h.2] at late
    cases late

/-! ### The choice of a trip part (R98) -/

/-- In a list that ascends by `f`, the first entry with `p` is the least of those with `p`. -/
theorem find?_eq_some_iff_least {α : Type} {f : α → Nat} {p : α → Bool} {l : List α}
    (hl : l.Pairwise (fun a b => f a < f b)) (a : α) :
    l.find? p = some a ↔ a ∈ l ∧ p a = true ∧ ∀ b ∈ l, p b = true → f a ≤ f b := by
  induction l with
  | nil => simp
  | cons x l ih =>
    obtain ⟨hx, hl⟩ := List.pairwise_cons.1 hl
    by_cases hp : p x = true
    · rw [List.find?_cons_of_pos hp, Option.some.injEq]
      constructor
      · rintro rfl
        refine ⟨List.mem_cons_self, hp, fun b hb _ => ?_⟩
        rcases List.mem_cons.1 hb with rfl | hb
        · exact le_rfl
        · exact (hx b hb).le
      · rintro ⟨ha, -, least⟩
        rcases List.mem_cons.1 ha with rfl | ha
        · rfl
        · exact absurd (hx a ha) (Nat.not_lt.2 (least x List.mem_cons_self hp))
    · rw [List.find?_cons_of_neg hp, ih hl]
      constructor
      · rintro ⟨ha, hpa, least⟩
        refine ⟨List.mem_cons_of_mem _ ha, hpa, fun b hb hpb => ?_⟩
        rcases List.mem_cons.1 hb with rfl | hb
        · exact absurd hpb hp
        · exact least b hb hpb
      · rintro ⟨ha, hpa, least⟩
        rcases List.mem_cons.1 ha with rfl | ha
        · exact absurd hpa hp
        · exact ⟨ha, hpa, fun b hb => least b (List.mem_cons_of_mem _ hb)⟩

/-- How many zones the search looks at before zone `z`, from the one after the last part zone on. -/
def zonesBefore (last z : ZoneIx) : Nat := (z.toNat + 7 - last.toNat) % 8

theorem partSearch_ascending (last : ZoneIx) :
    (partSearch last).Pairwise (fun y z => zonesBefore last y < zonesBefore last z) := by cases last <;> decide

/-- The search looks at every zone. -/
theorem partSearch_mem (last z : ZoneIx) : z ∈ partSearch last := by
  have all : ∀ y ∈ ZoneIx.all, y ∈ partSearch last := by cases last <;> decide
  exact all z (ZoneIx.mem_all z)

/-- A zone has a trip part to send: it is TRIPPED with its record present. -/
def Zone.eligible (e : Zone) : Prop := e.condition = .tripped ∧ e.record.isSome = true

theorem Zone.eligible_iff (e : Zone) : (decide (e.condition = .tripped) && e.record.isSome) = true ↔ e.eligible := by
  rw [Bool.and_eq_true, decide_eq_true_eq, Zone.eligible]

theorem State.nextPartZone_eq_some_iff (s : State) (z : ZoneIx) :
    s.nextPartZone = some z ↔ (s.zones.entries.get z).eligible ∧
      ∀ y, (s.zones.entries.get y).eligible → zonesBefore s.zones.lastPart z ≤ zonesBefore s.zones.lastPart y := by
  rw [State.nextPartZone, find?_eq_some_iff_least (partSearch_ascending _)]
  simp only [Zone.eligible_iff, partSearch_mem, true_and, forall_const]

theorem State.nextPartZone_eq_none_iff (s : State) :
    s.nextPartZone = none ↔ ∀ z, ¬ (s.zones.entries.get z).eligible := by
  simp only [State.nextPartZone, List.find?_eq_none, Zone.eligible_iff, partSearch_mem, forall_const]

theorem FaultKind.code_le (k : FaultKind) : k.code ≤ 5 := by cases k <;> decide

theorem ZoneIx.toNat_lt (z : ZoneIx) : z.toNat < 8 := by cases z <;> decide

/-- The zone and the fault kind fit their fields (Table 62). -/
theorem TripRecord.toPart_fields (t : TripRecord) (z : ZoneIx) :
    (t.toPart z).zone.toNat = z.toNat ∧ (t.toPart z).kindCode.toNat = t.kind.code := by
  have zone := ZoneIx.toNat_lt z
  have kind := t.kind.code_le
  simp only [TripRecord.toPart, toByte, BitVec.toNat_ofNat]
  omega

/-- Settles O40: the zones stand in the search in the order in which they follow the last part zone. -/
theorem tripPartRotates : Obligations.TripPartRotates := by
  refine fun s => ⟨s.nextPartZone_eq_some_iff, s.nextPartZone_eq_none_iff, fun h => ?_, fun z t hz ht => ?_⟩
  · simp only [State.partNow, h]
  · obtain ⟨zone, kind⟩ := t.toPart_fields z
    exact ⟨t.toPart z, by simp only [State.partNow, hz, ht, Option.map_some], zone, rfl, rfl, kind, rfl, rfl, rfl⟩

end Sys2Proof.Machine

/-! Proofs about the zone table: a demand pin taken, and the zone bytes of a frame. -/

namespace Sys2Proof.Machine
open Sys2Proof

/-! ### Demand pins (R74 to R76) -/

theorem execDemandPinTaken_ignored {s : State} {pin : DemPin}
    (h : (s.zones.pin pin).level = (s.zones.pin pin).taken ∨ s.startup.inReset ≠ none) (o : Occasion) :
    execDemandPinTaken o pin s = .next (s.after o) :=
  if_pos (h.imp_right Option.isSome_iff_ne_none.2)

/-- The pin's level is the taken one, no earlier than 1 ms after its last change. -/
def State.pinTaken (s : State) (o : Occasion) (pin : DemPin) : State :=
  { (s.after o).notBefore ((s.zones.pin pin).changedAt + 16000) with
    zones := s.zones.setPin pin { s.zones.pin pin with taken := (s.zones.pin pin).level } }

theorem execDemandPinTaken_taken {s : State} {pin : DemPin} (hl : (s.zones.pin pin).level ≠ (s.zones.pin pin).taken)
    (hr : s.startup.inReset = none) (o : Occasion) :
    execDemandPinTaken o pin s = .next ((s.pinTaken o pin).workOutDemand.judge o .demand) := by
  refine if_neg ?_
  rintro (h | h)
  · exact hl h
  · rw [State.after_startup, hr] at h
    cases h

/-- Settles O25: own demand and the shelf demand are worked out before the moves. -/
theorem demandPinsAreFiltered : Obligations.DemandPinsAreFiltered := by
  refine fun o pin s => ⟨rfl, fun h => execDemandPinTaken_ignored h o, fun hl hr => ?_⟩
  refine ⟨_, execDemandPinTaken_taken hl hr o, ?_⟩
  have settles := State.settle_settlesTo ((s.pinTaken o pin).workOutDemand.takeView .demand) o
  cases pin <;> exact settles

/-! ### What a frame does to a zone (Table 23, R91) -/

/-- The rows of Table 23, by the difference of the generations modulo 256. -/
theorem compareZone_rows (e : Zone) (g : Byte) (part : Option TripRecord) :
    let d := (g - e.generation).toNat
    (1 ≤ d ∧ d ≤ 127 → newerGeneration g e.generation = true) ∧ (d = 0 → g = e.generation) ∧
    (128 ≤ d → ∀ tripped, compareZone e g tripped part = ZoneOutcome.unchanged e) := by
  refine ⟨(newerGeneration_iff _ _).2, fun h => by bv_omega, fun h tripped => compareZone_older ?_ ?_ tripped⟩
  · rw [Bool.eq_false_iff, ne_eq, newerGeneration_iff]
    omega
  · rintro rfl
    simp at h

/-- The record of a zone adopted as TRIPPED: that of the part, or the one held at an unchanged generation and
condition (R91). -/
def Zone.adopted (e : Zone) (g : Byte) (part : Option TripRecord) : Option TripRecord :=
  match part with
  | some t => some t
  | none => if g = e.generation ∧ e.condition = .tripped then e.record else none

theorem adoptZone_tripped (e : Zone) (g : Byte) (part : Option TripRecord) :
    adoptZone e g true part =
      { entry := { e with generation := g, condition := .tripped, record := e.adopted g part }
        released := newerGeneration g e.generation, moved := true
        trippedFlag := decide (e.condition = .normal), clearedFlag := false } := by
  cases part <;> simp [adoptZone, Zone.adopted]

theorem partFor_same (z : ZoneIx) (t : TripRecord) : partFor (some (z, t)) z = some t := if_pos rfl

theorem partFor_other {y z : ZoneIx} (h : y ≠ z) (t : TripRecord) : partFor (some (y, t)) z = none := if_neg h

/-! ### All zones of a frame in one step (R90) -/

/-- Rail `r` after its zone's part of a frame, before any other move: released from FAULT, and taken down by a trip. -/
def State.framedRail (s : State) (f : Frame) (r : RailIx) : Rail :=
  match s.fittedConfig r with
  | some c =>
    let x := if (s.zoneOutcome f c.zone).released = true ∧ (s.rails.get r).state = .fault then
        (s.rails.get r).entered .off s.now else s.rails.get r
    if (s.zoneOutcome f c.zone).moved then x.takenDown c .trip s.now else x
  | none => s.rails.get r

/-- The zones, the rails and the flags of a frame, before any other move. -/
def State.framed (s : State) (f : Frame) : State :=
  { s with
    zones := { s.zones with entries := Eight.of (fun z => (s.zoneOutcome f z).entry) }
    rails := Four.of (s.framedRail f)
    monitor := { s.monitor with rails := Four.of (fun r =>
      if (s.framedRail f r).state = (s.rails.get r).state then s.monitor.rails.get r
      else (s.monitor.rails.get r).restarted) }
    port := { s.port with flags := s.port.flags |||
      (if ZoneIx.all.any (fun z => (s.zoneOutcome f z).trippedFlag) then 0x002 else 0) |||
      (if ZoneIx.all.any (fun z => (s.zoneOutcome f z).clearedFlag) then 0x004 else 0) } }

/-- A monitor record is started again exactly where the rail comes out of release and trip in another state. -/
theorem State.framedRail_eq {s t : State} {f : Frame} (ht : t.startup = s.startup) (hn : t.now = s.now)
    (hr : ∀ q, t.rails.get q = if s.releasedRail (fun z => (s.zoneOutcome f z).released) q then
      (s.rails.get q).entered .off s.now else s.rails.get q)
    (hm : ∀ q, t.monitor.rails.get q = if s.releasedRail (fun z => (s.zoneOutcome f z).released) q then
      (s.monitor.rails.get q).restarted else s.monitor.rails.get q) (r : RailIx) :
    t.downRail .trip (fun c => (s.zoneOutcome f c.zone).moved) r = s.framedRail f r ∧
    t.downMonitor (fun c => (s.zoneOutcome f c.zone).moved) r =
      if (s.framedRail f r).state = (s.rails.get r).state then s.monitor.rails.get r
      else (s.monitor.rails.get r).restarted := by
  unfold State.downRail State.downMonitor State.framedRail
  rw [hr, hm, hn, State.fittedConfig_congr ht]
  unfold State.releasedRail
  cases s.fittedConfig r with
  | none => simp
  | some c =>
    by_cases released : (s.zoneOutcome f c.zone).released = true ∧ (s.rails.get r).state = .fault
    · have still : ((s.rails.get r).entered .off s.now).takenDown c .trip s.now = (s.rails.get r).entered .off s.now :=
        rfl
      have counted : (s.monitor.rails.get r).restarted.takenDown ((s.rails.get r).entered .off s.now) =
        (s.monitor.rails.get r).restarted := rfl
      have changed : ((s.rails.get r).entered .off s.now).state ≠ .fault := by simp [Rail.entered]
      cases (s.zoneOutcome f c.zone).moved <;> simp [released, still, counted, changed]
    · have kept : ((s.zoneOutcome f c.zone).released && decide ((s.rails.get r).state = .fault)) = false := by
        simpa using released
      simp only [kept, if_neg released, Bool.false_eq_true, if_false]
      cases (s.zoneOutcome f c.zone).moved
      · simp
      · simp [Monitor.takenDown_eq _ _ c .trip s.now]

theorem State.takeZoneBytes_eq (s : State) (o : Occasion) (f : Frame) :
    s.takeZoneBytes o f = (s.framed f).settle o := by
  unfold State.takeZoneBytes
  refine congrArg (State.settle · o) ?_
  simp only [Eight.get_of, State.setFlagIf_eq]
  rw [State.takeDownAll_eq]
  generalize ht : State.releaseFaults _ _ = t
  rw [State.releaseFaults_eq] at ht
  have moved := State.framedRail_eq (s := s) (t := t) (f := f) (by rw [← ht]) (by rw [← ht])
    (fun q => by rw [← ht]; exact Four.get_of _ q) (fun q => by rw [← ht]; exact Four.get_of _ q)
  simp only [funext fun r => (moved r).1, funext fun r => (moved r).2]
  rw [← ht]
  rfl

/-- Settles O46: Table 23 and adoption by the generations' difference; the rails' moves in one step, by R23 and R30. -/
theorem zoneBytesAreJudgedAsTabled : Obligations.ZoneBytesAreJudgedAsTabled := by
  refine ⟨fun e g part => ?_, fun e g part => ?_, fun s f z => ⟨fun kept => ?_, ?_⟩, fun o s f => ?_⟩
  · obtain ⟨newer, same, older⟩ := compareZone_rows e g part
    refine ⟨fun h => ⟨compareZone_newer_normal (newer h), compareZone_newer_tripped (newer h)⟩, fun h => ?_, older⟩
    obtain rfl := same h
    refine ⟨compareZone_same_normal, compareZone_same_trips, fun hc hp => ?_, fun t hc hp => ?_⟩
    · rw [compareZone_same_tripped hc, hp]
    · rw [compareZone_same_tripped hc, hp]
      rfl
  · have newer : newerGeneration g e.generation =
        decide (1 ≤ (g - e.generation).toNat ∧ (g - e.generation).toNat ≤ 127) := by
      rw [Bool.eq_iff_iff, newerGeneration_iff, decide_eq_true_iff]
    dsimp only
    rw [← newer]
    refine ⟨rfl, e.adopted g part, adoptZone_tripped e g part, fun t ht => ?_, fun hp hg hc => ?_, fun hp hn => ?_⟩
    · rw [ht, Zone.adopted]
    · rw [hp, Zone.adopted, if_pos ⟨hg, hc⟩]
    · rw [hp, Zone.adopted, if_neg hn]
  · refine ⟨fun h => by rw [h]; rfl, fun y t h => ⟨fun e => ?_, fun e => ?_⟩⟩
    · rw [h, e, partFor_same]
    · rw [h, partFor_other e]
  · rfl
  · rw [State.takeZoneBytes_eq]
    exact State.settle_settlesTo (s.framed f) o

end Sys2Proof.Machine

/-! Proofs about CLEAR_ZONE: the moves that follow it only take rails up, so that every rail released from FAULT comes
as far as its prerequisites and its settle delay give. -/

namespace Sys2Proof.Machine
open Sys2Proof

/-! ### Moves that take rails up -/

/-- The state in which a rail is that has just started: RAMPING where its settle delay is 0 (R9, R12). -/
def RailConfig.started (c : RailConfig) : RailState := if c.settleDelay = 0 then .ramping else .settling

theorem RailConfig.started_cases (c : RailConfig) : c.started = .settling ∨ c.started = .ramping := by
  unfold RailConfig.started
  split
  · exact .inr rfl
  · exact .inl rfl

theorem State.enterSettling_started (s : State) (c : RailConfig) (r : RailIx) :
    ((s.enterSettling c r).rails.get r).state = c.started := by
  rw [State.enterSettling_eq, RailConfig.started]
  split <;> simp [Rail.entered]

/-- What `State.atRest` says of a rail, but that its gate may have opened, its prerequisites may have become GOOD, and
its zone NORMAL. -/
def State.restsOrRises (s : State) (c : RailConfig) (r : RailIx) : Prop :=
  match (s.rails.get r).state with
  | .off => True
  | .waiting => s.gateOpen c = true
  | .settling => s.gateOpen c = true ∧ s.allGood c r = true
  | .ramping => c.policy = .follow → s.allUp c r = true
  | .good => (c.policy = .follow → s.allUp c r = true) ∧ s.demanded c.zone = true
  | .draining => (c.policy = .follow → s.allUp c r = true) ∧ s.held r = true
  | .falling => True
  | .fault => True

/-- Rail `r` moves up from `s` to `u`: through its open gate to WAITING, or further with its prerequisites GOOD, or back
to GOOD from DRAINING. -/
inductive State.Rises (s : State) (r : RailIx) (c : RailConfig) (u : State) : Prop
  | waits (hs : (s.rails.get r).state = .off ∨ (s.rails.get r).state = .waiting) (hg : s.gateOpen c = true)
      (hu : (u.rails.get r).state = .waiting)
  | starts (hs : (s.rails.get r).state = .off ∨ (s.rails.get r).state = .waiting) (hg : s.gateOpen c = true)
      (ha : s.allGood c r = true) (hu : (u.rails.get r).state = c.started)
  | returns (hs : (s.rails.get r).state = .draining) (hd : s.demanded c.zone = true)
      (hu : (u.rails.get r).state = .good)

/-- Of what Table 10 gives such a rail, only the moves up are left. -/
theorem State.Reaction.rises {s u : State} {r : RailIx} {c : RailConfig} (hc : s.fittedConfig r = some c)
    (h : s.Reaction r c u) (hr : s.restsOrRises c r) : s.Rises r c u := by
  unfold State.restsOrRises at hr
  cases h with
  | opens hs hg =>
    have moves : s.MovesTo (s.enter r .waiting) :=
      State.MovesTo.enter _ (State.movable_of hc (by simp [hs]) (by simp [hs]))
    have good : (s.enter r .waiting).allGood c r = s.allGood c r :=
      moves.allGood (r := r) (fun q e => by simp [Four.get_set_other _ _ e]) (by simp [hs]) (by simp) c r
    rw [State.enterWaiting_eq]
    split
    · rename_i may
      exact .starts (.inl hs) hg (good ▸ State.allGood_of_mayStart may) (s.enterSettling_started c r)
    · exact .waits (.inl hs) hg (by simp)
  | shuts hs hg => rcases hs with hs | hs <;> simp_all
  | starts hs hg hm => exact .starts (.inr hs) hg (State.allGood_of_mayStart hm) (s.enterSettling_started c r)
  | waits hs | drains hs | released hs => simp_all
  | loses hs hp hu => rcases hs with hs | hs | hs <;> simp_all
  | returns hs hd => exact .returns hs hd (by simp)

/-- What holds a rail still does where at least the same rails rely on their prerequisites. -/
theorem State.held_mono {s t : State} {r : RailIx} (hs : t.startup = s.startup)
    (hp : (t.rails.get r).peerHeld = (s.rails.get r).peerHeld)
    (hk : ∀ p, (s.rails.get p).state.relies = true → (t.rails.get p).state.relies = true) (h : s.held r = true) :
    t.held r = true := by
  rw [State.held_iff] at h ⊢
  rw [hp, State.own_congr hs]
  refine h.imp_right fun ⟨q, d, hd, hq, hm⟩ => ⟨q, d, ?_, hk q hq, hm⟩
  rw [State.fittedConfig_congr hs, hd]

/-- Prerequisites that are all GOOD still are where at least the same rails are GOOD. -/
theorem State.MovesTo.allGood_mono {s t : State} (h : s.MovesTo t)
    (hk : ∀ p, (s.rails.get p).state = .good → (t.rails.get p).state = .good) {c : RailConfig} {r : RailIx}
    (hg : s.allGood c r = true) : t.allGood c r = true := by
  rw [State.allGood_iff] at hg ⊢
  refine ⟨(h.kept r).1.trans hg.1, fun p hp hs => ?_⟩
  have shown := hg.2 p hp (hs.trans h.own)
  unfold State.shownState at shown ⊢
  rw [h.fitted]
  split at shown
  · exact hk _ shown
  · cases shown

namespace State.Rises
variable {s u : State} {r : RailIx} {c : RailConfig}

/-- The rail is not GOOD before, is up in both states or in neither, and relies on its prerequisites if it did. -/
theorem rail (h : s.Rises r c u) : (s.rails.get r).state ≠ .good ∧
    (u.rails.get r).state.up = (s.rails.get r).state.up ∧
    ((s.rails.get r).state.relies = true → (u.rails.get r).state.relies = true) := by
  cases h with
  | waits hs hg hu => rcases hs with hs | hs <;> rw [hs, hu] <;> decide
  | starts hs hg ha hu => rcases hs with hs | hs <;> rcases c.started_cases with k | k <;> rw [hs, hu, k] <;> decide
  | returns hs hd hu => rw [hs, hu]; decide

theorem good (h : s.Rises r c u) (others : ∀ q, q ≠ r → u.rails.get q = s.rails.get q) (p : RailIx)
    (hp : (s.rails.get p).state = .good) : (u.rails.get p).state = .good := by
  by_cases e : p = r
  · exact absurd (e ▸ hp) h.rail.1
  · rw [others p e, hp]

variable (h : s.Rises r c u) (moves : s.MovesTo u) (others : ∀ q, q ≠ r → u.rails.get q = s.rails.get q)
include h moves others

theorem allUp (d : RailConfig) (q : RailIx) : u.allUp d q = s.allUp d q := moves.allUp_of (fun p => by
  by_cases e : p = r
  · exact e ▸ h.rail.2.1
  · rw [others p e]) d q

theorem held {q : RailIx} (hq : s.held q = true) : u.held q = true :=
  State.held_mono moves.startup (moves.kept q).2.2.1 (fun p hp => by
    by_cases e : p = r
    · subst e
      exact h.rail.2.2 hp
    · rw [others p e, hp]) hq

/-- Every other rail rests or rises as before. -/
theorem others_restsOrRises {q : RailIx} (e : q ≠ r) {d : RailConfig} (hq : s.restsOrRises d q) :
    u.restsOrRises d q := by
  have good : s.allGood d q = true → u.allGood d q = true := moves.allGood_mono (h.good others)
  have held : s.held q = true → u.held q = true := h.held moves others
  unfold State.restsOrRises at hq ⊢
  rw [others q e, h.allUp moves others, moves.gateOpen, moves.demanded]
  cases hs : (s.rails.get q).state <;> simp only [hs] at hq ⊢
  case settling => exact ⟨hq.1, good hq.2⟩
  case draining => exact ⟨hq.1, held hq.2⟩
  all_goals exact hq

/-- So does the rail itself: where it started, its prerequisites are GOOD and so are up. -/
theorem self_restsOrRises (hc : s.fittedConfig r = some c) (hv : u.viewFresh) (hr : s.restsOrRises c r) :
    u.restsOrRises c r := by
  have gate := moves.gateOpen c
  have up := h.allUp moves others c r
  have demanded := moves.demanded c.zone
  unfold State.restsOrRises at hr ⊢
  cases id h with
  | waits hs hg hu =>
    rw [hu]
    exact gate.trans hg
  | starts hs hg ha hu =>
    have good : u.allGood c r = true := moves.allGood_mono (h.good others) ha
    rw [hu]
    rcases c.started_cases with k | k <;> rw [k]
    · exact ⟨gate.trans hg, good⟩
    · exact fun _ => State.allUp_of_allGood hv ((moves.fitted r).trans hc) good
  | returns hs hd hu =>
    simp only [hs] at hr
    rw [hu]
    exact ⟨fun hp => up.trans (hr.1 hp), demanded.trans hd⟩

end State.Rises

/-- Rail `r`, in OFF at first, has come as far as its prerequisites give. -/
def State.comesUp (s : State) (r : RailIx) (c : RailConfig) : Prop :=
  (s.rails.get r).state = .off ∨ (s.rails.get r).state = .waiting ∨
    s.allGood c r = true ∧ (s.rails.get r).state = c.started

/-- Every rail at most rises, rail `r` from OFF, and the view is fresh. -/
structure State.Rising (s : State) (r : RailIx) (c : RailConfig) : Prop where
  fresh : s.viewFresh
  rests : ∀ q d, s.fittedConfig q = some d → s.restsOrRises d q
  rail : s.comesUp r c

theorem State.Rising.react {s u : State} {o : Occasion} {r q : RailIx} {c : RailConfig}
    (hc : s.fittedConfig r = some c) (h : s.Rising r c) (hu : s.react o q = some u) : u.Rising r c := by
  obtain ⟨d, hd, reaction⟩ := State.react_reaction hu
  have rises := reaction.rises hd (h.rests q d hd)
  have moves := State.MovesTo.react hu
  have others (p : RailIx) (e : p ≠ q) : u.rails.get p = s.rails.get p := (State.react_sameRail hu p e).1
  have fresh := (State.RailsEnter.react hu).viewFresh h.fresh
  have good {e : RailConfig} {p : RailIx} : s.allGood e p = true → u.allGood e p = true :=
    moves.allGood_mono (rises.good others)
  refine ⟨fresh, fun p e he => ?_, ?_⟩
  · rw [moves.fitted] at he
    by_cases k : p = q
    · subst k
      obtain rfl : d = e := Option.some.inj (hd.symm.trans he)
      exact rises.self_restsOrRises moves others hd fresh (h.rests p d hd)
    · exact rises.others_restsOrRises moves others k (h.rests p e he)
  · by_cases k : r = q
    · subst k
      obtain rfl : c = d := Option.some.inj (hc.symm.trans hd)
      cases rises with
      | waits _ _ hw => exact .inr (.inl hw)
      | starts _ _ ha hw => exact .inr (.inr ⟨good ha, hw⟩)
      | returns hs =>
        have up := h.rail
        unfold State.comesUp at up
        rw [hs] at up
        rcases c.started_cases with k | k <;> simp [k] at up
    · unfold State.comesUp
      rw [others r k]
      exact h.rail.imp_right (Or.imp_right (And.imp_left good))

theorem State.Rising.settle {s : State} {r : RailIx} {c : RailConfig} (hc : s.fittedConfig r = some c)
    (h : s.Rising r c) (o : Occasion) : (s.settle o).Rising r c := by
  have chain {t : State} (k : Relation.ReflTransGen (State.MovesOnce o) s t) :
      t.fittedConfig r = some c ∧ t.Rising r c := by
    induction k with
    | refl => exact ⟨hc, h⟩
    | tail _ k ih =>
      obtain ⟨q, hq⟩ := k
      exact ⟨((State.MovesTo.react hq).fitted r).trans ih.1, ih.2.react ih.1 hq⟩
  exact (chain (s.settle_reaches o)).2

/-- Where rails at most rise, a rail in OFF with its gate open comes to WAITING, SETTLING or RAMPING as its
prerequisites and its settle delay give (R8, R9, R12). -/
theorem State.settle_rises {v : State} {r : RailIx} {c : RailConfig} (hc : v.fittedConfig r = some c)
    (hr : (v.rails.get r).state = .off) (gate : v.gateOpen c = true) (hv : v.viewFresh)
    (rests : ∀ q d, v.fittedConfig q = some d → v.restsOrRises d q) (o : Occasion) :
    let u := v.settle o
    (u.allGood c r = false → (u.rails.get r).state = .waiting) ∧
    (u.allGood c r = true → c.settleDelay ≠ 0 → (u.rails.get r).state = .settling) ∧
    (u.allGood c r = true → c.settleDelay = 0 → (u.rails.get r).state = .ramping) := by
  have risen : (v.settle o).Rising r c := State.Rising.settle hc ⟨hv, rests, .inl hr⟩ o
  have fitted : (v.settle o).fittedConfig r = some c := ((v.settle_moves o).fitted r).trans hc
  have demanded : (v.settle o).demanded c.zone = true :=
    ((v.settle_moves o).demanded c.zone).trans ((v.gateOpen_iff c).1 gate).2.2.1
  have started (hg : (v.settle o).allGood c r = true) : ((v.settle o).rails.get r).state = c.started := by
    rcases risen.rail with k | k | ⟨-, k⟩
    · exact absurd k (State.settle_ne_off hc gate o)
    · have at_ := (v.settle o).atRest_iff_restsAt.1 (v.settle_atRest o) r c fitted
      unfold State.restsAt at at_
      simp only [k, State.mayStart_of_allGood risen.fresh fitted hg demanded] at at_
      exact absurd at_.2 (by simp)
    · exact k
  refine ⟨fun hg => ?_, fun hg hd => (started hg).trans (if_neg hd), fun hg hd => (started hg).trans (if_pos hd)⟩
  rcases risen.rail with k | k | ⟨k, -⟩
  · exact absurd k (State.settle_ne_off hc gate o)
  · exact k
  · rw [hg] at k
    cases k

/-! ### CLEAR_ZONE (R93, R94, R190) -/

/-- The zone table, the rails and the flags of a clear, before the moves that follow. -/
def State.zoneCleared (s : State) (z : ZoneIx) : State :=
  { s with
    zones := { s.zones with
      entries := s.zones.entries.set z { s.zones.entries.get z with
        generation := (s.zones.entries.get z).generation + 1, condition := .normal, record := none } }
    rails := Four.of (fun r =>
      if s.releasedRail (fun y => decide (y = z)) r then (s.rails.get r).entered .off s.now else s.rails.get r)
    monitor := { s.monitor with rails := Four.of (fun r =>
      if s.releasedRail (fun y => decide (y = z)) r then (s.monitor.rails.get r).restarted
      else s.monitor.rails.get r) }
    port := { s.port with flags := s.port.flags ||| 0x004 } }

theorem State.zoneCleared_eq (s : State) (z : ZoneIx) :
    s.zoneCleared z = (State.releaseFaults (s.setZone z { s.zones.entries.get z with
      generation := (s.zones.entries.get z).generation + 1, condition := .normal, record := none })
      (fun y => decide (y = z))).setFlag .zoneCleared := by
  rw [State.releaseFaults_eq]
  rfl

theorem State.clear_eq (s : State) (o : Occasion) (z : ZoneIx) : s.clear o z = (s.zoneCleared z).settle o := by
  rw [State.zoneCleared_eq]
  rfl

namespace State.zoneCleared
variable (s : State) (z : ZoneIx)

theorem entry (y : ZoneIx) : ((s.zoneCleared z).zones.entries.get y).demanded = (s.zones.entries.get y).demanded ∧
    ((s.zoneCleared z).zones.entries.get y).condition =
      if y = z then .normal else (s.zones.entries.get y).condition := by
  by_cases e : y = z
  · subst e
    simp [State.zoneCleared]
  · simp [State.zoneCleared, Eight.get_set, e]

theorem enters : s.RailsEnter (s.zoneCleared z) := by
  have entries := State.RailsEnter.setEntries s _ fun y => (entry s z y).1
  rw [State.zoneCleared_eq]
  exact (entries.trans (State.RailsEnter.releaseFaults _ _)).trans (State.RailsEnter.setFlag _ _)

variable {s z}

/-- A clear opens gates alone. -/
theorem gateOpen {c : RailConfig} (h : s.gateOpen c = true) : (s.zoneCleared z).gateOpen c = true := by
  rw [State.gateOpen_iff] at h ⊢
  obtain ⟨hp, hr, hd, hn⟩ := h
  obtain ⟨demanded, condition⟩ := entry s z c.zone
  refine ⟨hp, hr, demanded.trans hd, ?_⟩
  rw [condition, hn, ite_self]

theorem released {r : RailIx} {c : RailConfig} (hc : s.fittedConfig r = some c) (hz : c.zone = z)
    (hs : (s.rails.get r).state = .fault) :
    (s.zoneCleared z).rails.get r = (s.rails.get r).entered .off s.now := by
  have hit : s.releasedRail (fun y => decide (y = z)) r = true := by simp [State.releasedRail, hc, hz, hs]
  simp only [State.zoneCleared, Four.get_of, hit, if_true]

/-- Every other rail is as it was. -/
theorem rail_cases (r : RailIx) : (s.zoneCleared z).rails.get r = s.rails.get r ∨
    (s.rails.get r).state = .fault ∧ ((s.zoneCleared z).rails.get r).state = .off := by
  simp only [State.zoneCleared, Four.get_of]
  split
  · rename_i hit
    refine .inr ⟨?_, rfl⟩
    unfold State.releasedRail at hit
    split at hit
    · exact of_decide_eq_true (Bool.and_eq_true_iff.1 hit).2
    · cases hit
  · exact .inl rfl

/-- No rail finds the released ones changed: neither FAULT nor OFF is up or relies on anything. -/
theorem alike (r : RailIx) : RailState.Alike (s.rails.get r).state ((s.zoneCleared z).rails.get r).state := by
  rcases rail_cases (s := s) (z := z) r with k | ⟨hs, ho⟩
  · rw [k]
    exact RailState.Alike.refl _
  · rw [hs, ho]
    exact ⟨by simp, rfl, rfl⟩

theorem restsOrRises {r : RailIx} {c : RailConfig} (h : s.restsAt c r) : (s.zoneCleared z).restsOrRises c r := by
  have enters := enters s z
  obtain ⟨keptGood, keptUp, keptHeld⟩ := enters.kept r
  have good : (s.zoneCleared z).allGood c r = s.allGood c r :=
    State.allGood_congr enters.startup keptGood (fun p => (alike p).good) c
  have up : (s.zoneCleared z).allUp c r = s.allUp c r :=
    State.allUp_congr enters.startup keptUp (fun p => (alike p).up) c
  have held : s.held r = true → (s.zoneCleared z).held r = true :=
    State.held_mono enters.startup keptHeld fun p hp => (alike p).relies.trans hp
  have gate : s.gateOpen c = true → (s.zoneCleared z).gateOpen c = true := gateOpen
  unfold State.restsAt at h
  unfold State.restsOrRises
  rcases rail_cases (s := s) (z := z) r with k | ⟨-, ho⟩
  · rw [k, good, up, enters.demanded]
    cases hs : (s.rails.get r).state <;> simp only [hs] at h ⊢
    case waiting => exact gate h.1
    case settling => exact ⟨gate h.1, h.2⟩
    case ramping | good => exact h
    case draining => exact ⟨h.1, held h.2.1⟩
  · rw [ho]
    trivial

end State.zoneCleared

theorem ZoneIx.ofIndex_toByte (z : ZoneIx) : ZoneIx.ofIndex (toByte z.toNat).toNat = z := by cases z <;> rfl

/-- CLEAR_ZONE of a zone, with a configuration and no restart pending, clears it. -/
theorem execClearZone_configured {s : State} (o : Occasion) (z : ZoneIx) (ht : s.port.transaction = .command)
    (hr : s.startup.restartPending = false)
    (hp : s.line.phase = .listen ∨ s.line.phase = .active ∨ s.line.phase = .muted) :
    execClearZone o (toByte z.toNat) s = .next ((((s.after o).zoneCleared z).settle o).answer .ok []) := by
  have phase : configuredPhase s.line.phase = true := by rcases hp with h | h | h <;> rw [h] <;> rfl
  have range : decide ((toByte z.toNat).toNat ≤ 7) = true := by cases z <;> rfl
  have taken : refusal (s.after o) true configuredPhase (decide ((toByte z.toNat).toNat ≤ 7)) = none := by
    rw [range]
    simp [refusal, hr, phase]
  unfold execClearZone portCommand
  simp only [taken]
  rw [ZoneIx.ofIndex_toByte, State.clear_eq]
  exact if_pos ht

/-- Settles O18: a released rail is in OFF when the moves begin, and all of these take rails up. -/
theorem clearZoneAdvancesGeneration : Obligations.ClearZoneAdvancesGeneration := by
  intro o z s ht hr hp
  let v := (s.after o).zoneCleared z
  refine ⟨v.settle o, execClearZone_configured o z ht hr hp, State.settle_settlesTo v o, fun r c hc hz hs => ?_⟩
  have rail : v.rails.get r = (s.rails.get r).entered .off (s.now + o.wait) :=
    State.zoneCleared.released (s := s.after o) hc hz hs
  have off : (v.rails.get r).state = .off := by rw [rail]; rfl
  have gate : v.gateOpen c = true ↔ s.line.phase = .active ∧ (s.zones.entries.get z).demanded = true := by
    obtain ⟨demanded, condition⟩ := State.zoneCleared.entry (s.after o) z c.zone
    rw [if_pos hz] at condition
    rw [State.gateOpen_iff, demanded, condition, hz]
    exact ⟨fun ⟨hl, _, hd, _⟩ => ⟨hl, hd⟩, fun ⟨hl, hd⟩ => ⟨hl, hr, hd, rfl⟩⟩
  refine ⟨?_, fun shut => ?_, fun opened rest fresh => ?_⟩
  · rw [((v.settle_moves o).kept r).2.2.2, rail]
    rfl
  · rw [← gate, Bool.not_eq_true] at shut
    rw [(State.settle_sameRail_off (s := v) hc off shut o).1, rail]
    rfl
  · exact State.settle_rises (v := v) hc off (gate.2 opened) ((State.zoneCleared.enters (s.after o) z).viewFresh fresh)
      (fun q d hd => State.zoneCleared.restsOrRises (s := s.after o) ((s.after o).atRest_iff_restsAt.1 rest q d hd)) o

end Sys2Proof.Machine

/-! Proofs about line access: frame starts, entries into LISTEN and MUTED, collisions, clean ends and cold starts. -/

namespace Sys2Proof.Machine
open Sys2Proof

/-! ### Frame starts (R119, R142, R144) -/

theorem execFrameStart_off {s : State} (h : s.receiver.reception = .off) (o : Occasion) :
    execFrameStart o s = .next (s.after o) := if_pos h

theorem execFrameStart_on {s : State} (h : s.receiver.reception ≠ .off) (o : Occasion) :
    execFrameStart o s = .next { s.after o with
      line := { s.line with silence := if s.line.silence = none then none else some (s.now + o.wait) }
      receiver := { s.receiver with reception := s.receiver.reception.atFrameStart (s.now + o.wait) } } := by
  have restarted : s.line.silence.map (fun _ => s.now + o.wait) =
      if s.line.silence = none then none else some (s.now + o.wait) := by cases s.line.silence <;> rfl
  rw [← restarted]
  exact if_neg h

/-- Settles O43: the reception states in turn. -/
theorem frameStartBeginsReception : Obligations.FrameStartBeginsReception := by
  intro o s now after
  have started {x y : Reception} (hx : s.receiver.reception = x) (ho : x ≠ .off) (hy : x.atFrameStart now = y) :
      exec (.frameStart o) s = .next (after y) := by
    subst hx hy
    exact execFrameStart_on ho o
  refine ⟨fun h => execFrameStart_off h o, fun h => started h (by simp) rfl,
    fun ended h => ⟨fun late => ?_, fun early => ?_⟩, fun t₀ h => started h (by simp) rfl,
    fun h => started h (by simp) rfl⟩
  · exact started h (by simp) (if_pos late)
  · exact started h (by simp) (if_neg (Nat.not_lt.2 early))

/-! ### Entries into LISTEN and MUTED (R127, R135, R136) -/

theorem Leaving.dropped_eq (l : Leaving) : l.dropped = if l = .due then .none else l := by cases l <;> rfl

/-- The peer table when the station is no longer ACTIVE: its own entry is LOST where it was ACTIVE (R113). -/
def State.peersSilent (s : State) : List Peer :=
  if s.line.phase = .active then s.peers.modify s.own (fun p => { p with presence := .lost }) else s.peers

theorem State.ownEntryLost_peers (s : State) : s.ownEntryLost.peers = s.peersSilent := by
  unfold State.ownEntryLost State.peersSilent
  split <;> rfl

/-- Line access on its entry into LISTEN at instant `now` (R127, R135). -/
def LineAccess.listening (l : LineAccess) (now : Nat) : LineAccess :=
  { l with
    phase := .listen, timingHeld := false, listenCount := 0, silence := some now, coldMark := false
    leaving := if l.leaving = .due then .none else l.leaving }

/-- Line access on its entry into MUTED (R136, R135). -/
def LineAccess.muted (l : LineAccess) : LineAccess :=
  { l with
    phase := .muted, listenCount := 0, silence := none, coldMark := false
    leaving := if l.leaving = .due then .none else l.leaving }

theorem State.enterListen_listening (s : State) :
    s.enterListen = { s with peers := s.peersSilent, line := s.line.listening s.now } := by
  rw [State.enterListen_eq, State.ownEntryLost_peers, Leaving.dropped_eq]
  rfl

theorem State.enterMuted_muted (s : State) (k : MuteCause) : s.enterMuted k = { s with
    peers := s.peersSilent
    line := s.line.muted
    receiver := { s.receiver with muteCause := k }
    port := { s.port with flags := s.port.flags ||| 0x020 } } := by
  rw [State.enterMuted_eq, State.ownEntryLost_peers, Leaving.dropped_eq]
  rfl

/-- Outside ACTIVE every start gate is shut, so that one phase may follow another without a move (R7). -/
theorem State.atRest_setLine {s : State} {l : LineAccess} (hs : s.line.phase ≠ .active) (hl : l.phase ≠ .active)
    (h : s.atRest) : ({ s with line := l } : State).atRest := by
  have gate (c : RailConfig) : ({ s with line := l } : State).gateOpen c = s.gateOpen c := by
    simp [State.gateOpen, hs, hl]
  intro r c hc
  have rest := h r c hc
  simp only [gate]
  exact rest

/-! ### RESUME_LINE (R138) -/

section
variable {s : State} (ht : s.port.transaction = .command) (o : Occasion)
include ht

theorem execResumeLine_refused {x : Result}
    (hx : refusal (s.after o) true (fun p => decide (p = .muted)) true = some x) :
    execResumeLine o s = .next ((s.after o).answer x []) := by
  unfold execResumeLine portCommand anyArgument
  simp only [hx]
  exact if_pos ht

theorem execResumeLine_muted (hr : s.startup.restartPending = false) (hp : s.line.phase = .muted) :
    execResumeLine o s = .next (({ (s.after o).enterListen with
      receiver := { s.receiver with consecutive := 0, muteCause := .none } }.settle o).answer .ok []) := by
  have taken : refusal (s.after o) true (fun p => decide (p = .muted)) true = none := by simp [refusal, hr, hp]
  unfold execResumeLine portCommand anyArgument
  simp only [taken]
  exact if_pos ht

end

/-- Settles O21: the entry into LISTEN leaves the rails at rest, as neither MUTED nor LISTEN opens a gate. -/
theorem resumeLineLeavesMuted : Obligations.ResumeLineLeavesMuted := by
  intro o s ht rest
  refine ⟨fun hr => ?_, fun hr hp => ?_, fun hr hp => ?_⟩
  · exact execResumeLine_refused ht o (by simp [refusal, hr])
  · exact execResumeLine_refused ht o (by simp [refusal, hr, hp])
  · have listens : ({ s with line := s.line.listening (s.now + o.wait) } : State).atRest :=
      State.atRest_setLine (by simp [hp]) (by simp [LineAccess.listening]) rest
    have peers : (s.after o).peersSilent = s.peers := if_neg (by simp [hp])
    refine (execResumeLine_muted ht o hr hp).trans ?_
    rw [State.enterListen_listening, peers, State.settle_of_atRest]
    · rfl
    · exact listens

/-! ### COLLISION and OWN_FRAME_END (R130, R133, R135, R136) -/

theorem execCollision_idle {s : State} (h : s.line.send ≠ .sending ∨ s.line.tx = none) (o : Occasion) :
    execCollision o s = .next (s.after o) := by
  unfold execCollision
  dsimp only
  split
  · rename_i hs ht
    simp_all
  · rfl

/-- The own frame `f` is cut off by a collision, which is counted (R133, R135). -/
def State.frameCut (s : State) (o : Occasion) (f : OutFrame) : State :=
  { s.after o with
    line := { s.line with send := .cutOff, tx := none, leaving := if f.leaving then .done else s.line.leaving }
    receiver := { s.receiver with collisions := min 255 (s.receiver.collisions + 1) } }

section
variable {s : State} {f : OutFrame} (hs : s.line.send = .sending) (hf : s.line.tx = some f) (o : Occasion)
include hs hf

theorem execCollision_coldStart (hc : s.line.coldMark = true) :
    execCollision o s = .next ((s.frameCut o f).enterListen.settle o) := by
  unfold execCollision
  simp only [State.after, hs, hf]
  exact if_pos hc

theorem execCollision_ordinary (hc : s.line.coldMark = false) :
    execCollision o s =
      if 3 ≤ s.receiver.consecutive + 1 then
        .next ((State.enterMuted { s.frameCut o f with receiver := { (s.frameCut o f).receiver with
          consecutive := min 3 (s.receiver.consecutive + 1) } } .collision).settle o)
      else .next { s.frameCut o f with receiver := { (s.frameCut o f).receiver with
        consecutive := min 3 (s.receiver.consecutive + 1) } } := by
  unfold execCollision
  simp only [State.after, hs, hf]
  exact if_neg (by simp [hc])

theorem execOwnFrameEnd_sending :
    execOwnFrameEnd o s = .next { s with
      now := max (s.now + o.wait) (f.start + 160 * f.bytes.length)
      line := { s.line with
        tx := none, coldMark := false, leaving := if f.leaving then .done else s.line.leaving }
      receiver := { s.receiver with consecutive := 0 } } := by
  have bits : Config.us (10 * f.bytes.length) = 160 * f.bytes.length := by unfold Config.us; omega
  unfold execOwnFrameEnd
  simp only [State.after, State.notBefore, hs, hf, bits]

end

theorem execOwnFrameEnd_idle {s : State} (h : s.line.send ≠ .sending ∨ s.line.tx = none) (o : Occasion) :
    execOwnFrameEnd o s = .next (s.after o) := by
  unfold execOwnFrameEnd
  dsimp only
  split
  · rename_i hs ht
    simp_all
  · rfl

/-- Settles O41: a collision below the third in a row, the third, that of a cold-start frame, and the clean end. -/
theorem ownFrameEndsCleanOrCutOff : Obligations.OwnFrameEndsCleanOrCutOff := by
  refine ⟨fun o s => ⟨fun h => execCollision_idle h o,
      fun f hs hf => ⟨fun hc few => ?_, fun hc many => ?_, fun hc => ?_⟩⟩,
    fun o s => ⟨fun h => execOwnFrameEnd_idle h o, fun f hs hf => execOwnFrameEnd_sending hs hf o⟩⟩
  · have count : min 3 (s.receiver.consecutive + 1) = s.receiver.consecutive + 1 := by omega
    refine (execCollision_ordinary hs hf o hc).trans ?_
    rw [if_neg (by omega), count]
    rfl
  · have count : min 3 (s.receiver.consecutive + 1) = 3 := by omega
    refine ⟨_, (execCollision_ordinary hs hf o hc).trans (if_pos (by omega)), ?_⟩
    rw [count, State.enterMuted_muted]
    exact State.settle_settlesTo _ o
  · refine ⟨_, execCollision_coldStart hs hf o hc, ?_⟩
    rw [State.enterListen_listening]
    exact State.settle_settlesTo _ o

/-! ### COLD_START (R129) -/

theorem execColdStart_idle {s : State} (h : s.line.silence = none ∨ s.line.phase ≠ .listen ∨ s.line.timingHeld = true)
    (o : Occasion) : execColdStart o s = .next (s.after o) := by
  unfold execColdStart
  dsimp only
  split
  · rfl
  · rename_i t ht
    refine if_neg fun ⟨hp, hh⟩ => ?_
    rcases h with h | h | h
    · exact Option.some_ne_none t (ht.symm.trans h)
    · exact h hp
    · exact Bool.false_ne_true (hh.symm.trans h)

theorem execColdStart_due {s : State} {t : Nat} (ht : s.line.silence = some t) (hp : s.line.phase = .listen)
    (hh : s.line.timingHeld = false) (o : Occasion) :
    let now := max (s.now + o.wait) (t + (s.shelfSize + s.own) * 7200)
    execColdStart o s =
      if s.startup.restartPending then .next { s with now := now, line := { s.line with silence := none } }
      else .next (State.settle { s with
        now := now
        line := { s.line with
          phase := .active, slotTimer := some { slot := s.own, start := now }, timingHeld := true
          cycle := if s.line.syncSinceLoad then s.line.cycle else 0, silence := none, coldMark := true } } o) := by
  unfold execColdStart
  simp only [State.after, ht]
  exact if_pos ⟨hp, hh⟩

/-- Settles O42, by whether the silence wait runs and whether a restart is pending. -/
theorem coldStartEntersActive : Obligations.ColdStartEntersActive := by
  intro o s
  refine ⟨fun h => execColdStart_idle h o, fun t ht hp hh => ⟨fun hr => ?_, fun hr => ?_⟩⟩
  · exact (execColdStart_due ht hp hh o).trans (if_pos hr)
  · exact ⟨_, (execColdStart_due ht hp hh o).trans (if_neg (by simp [hr])), State.settle_settlesTo _ o⟩

end Sys2Proof.Machine

/-! Proofs about slot boundaries: what the end of a slot and the start of the next change, and what neither changes. -/

namespace Sys2Proof.Machine
open Sys2Proof

/-! ### What the judgements that follow a slot boundary leave alone -/

/-- What neither half of a slot boundary changes: the clock, the configuration, the zones but for their shelf demand,
the rails in FALLING and FAULT, and flags that are set. -/
structure State.BoundaryFrame (s t : State) : Prop where
  now : t.now = s.now
  pending : t.pending = s.pending
  startup : t.startup = s.startup
  zone : ∀ z, (t.zones.entries.get z).generation = (s.zones.entries.get z).generation ∧
    (t.zones.entries.get z).condition = (s.zones.entries.get z).condition ∧
    (t.zones.entries.get z).record = (s.zones.entries.get z).record
  rail : ∀ r, (s.rails.get r).state = .falling ∨ (s.rails.get r).state = .fault →
    (t.rails.get r).state = (s.rails.get r).state
  flag : ∀ f, s.flagSet f = true → t.flagSet f = true

namespace State.BoundaryFrame

theorem refl (s : State) : s.BoundaryFrame s := ⟨rfl, rfl, rfl, fun _ => ⟨rfl, rfl, rfl⟩, fun _ _ => rfl, fun _ h => h⟩

theorem trans {s t u : State} (h : s.BoundaryFrame t) (k : t.BoundaryFrame u) : s.BoundaryFrame u where
  now := k.now.trans h.now
  pending := k.pending.trans h.pending
  startup := k.startup.trans h.startup
  zone z := by
    obtain ⟨generation, condition, record⟩ := h.zone z
    rw [← generation, ← condition, ← record]
    exact k.zone z
  rail r hr := (k.rail r ((h.rail r hr).symm ▸ hr)).trans (h.rail r hr)
  flag f hf := k.flag f (h.flag f hf)

theorem ofMoves {s t : State} (h : s.MovesTo t) : s.BoundaryFrame t where
  now := h.now
  pending := h.pending
  startup := h.startup
  zone z := by simp [h.zones]
  rail r hr := by rw [(h.still r (.inr hr)).1]
  flag _ hf := h.flagSet hf

theorem takeView (s : State) (v : View) : s.BoundaryFrame (s.takeView v) where
  now := by cases v <;> rfl
  pending := by cases v <;> rfl
  startup := by cases v <;> rfl
  zone z := by cases v <;> simp [State.takeView]
  rail r _ := by
    obtain ⟨good, up, held, hr⟩ := s.takeView_rail v r
    rw [hr]
  flag f hf := by cases v <;> exact hf

theorem setFlagIf (s : State) (b : Bool) (f : AlertFlag) : s.BoundaryFrame (s.setFlagIf b f) := by
  cases b
  · exact refl s
  · exact ⟨rfl, rfl, rfl, fun _ => ⟨rfl, rfl, rfl⟩, fun _ _ => rfl, fun _ h => State.flagSet_or f.bit rfl h⟩

theorem updatePeer (s : State) (n : Nat) (g : Peer → Peer) : s.BoundaryFrame (s.updatePeer n g) :=
  ⟨rfl, rfl, rfl, fun _ => ⟨rfl, rfl, rfl⟩, fun _ _ => rfl, fun _ h => h⟩

theorem setLine (s : State) (l : LineAccess) (x : Receiver) : s.BoundaryFrame { s with line := l, receiver := x } :=
  ⟨rfl, rfl, rfl, fun _ => ⟨rfl, rfl, rfl⟩, fun _ _ => rfl, fun _ h => h⟩

/-- Judging a change of presence leaves line access, the receiver and the peer table alone (R105). -/
theorem judgeAll (s : State) (o : Occasion) : s.BoundaryFrame (s.judgeAll o) ∧ (s.judgeAll o).line = s.line ∧
    (s.judgeAll o).receiver = s.receiver ∧ (s.judgeAll o).peers = s.peers := by
  refine State.judgeAll_keeps_of (P := fun t => s.BoundaryFrame t ∧ t.line = s.line ∧ t.receiver = s.receiver ∧
    t.peers = s.peers) (fun t v ⟨frame, line, receiver, peers⟩ => ?_) ⟨refl s, rfl, rfl, rfl⟩
  have moves : (t.takeView v).MovesTo (t.judge o v) := State.settle_moves _ o
  have view := t.takeView_sameButView v
  exact ⟨frame.trans ((takeView t v).trans (ofMoves moves)), (moves.line.trans view.line).trans line,
    (moves.receiver.trans view.receiver).trans receiver, (moves.peers.trans view.peers).trans peers⟩

end State.BoundaryFrame

/-! ### The end of a slot (R107, R112, R131, R142) -/

/-- The end of slot `k` as line access and the receiver take it: an own slot with a frame begun ends that frame. -/
def State.ownSlotEnded (s : State) (k : Nat) : State :=
  { s with
    line := { s.line with
      send := if k = s.own ∧ s.line.send ≠ .idle then .idle else s.line.send
      tx := if k = s.own ∧ s.line.send ≠ .idle then none else s.line.tx }
    receiver := { s.receiver with
      reception := if (k = s.own ∧ s.line.send ≠ .idle) ∧ s.receiver.reception = .blocked then .waiting none
        else s.receiver.reception } }

theorem State.ownSlotEnded_eq (s : State) (k : Nat) : s.ownSlotEnded k =
    if k = s.own ∧ s.line.send ≠ .idle then
      { s with
        line := { s.line with send := .idle, tx := none }
        receiver := { s.receiver with
          reception := if s.receiver.reception = .blocked then .waiting none else s.receiver.reception } }
    else s := by
  by_cases ended : k = s.own ∧ s.line.send ≠ .idle
  · rw [if_pos ended]
    simp only [State.ownSlotEnded, ended, true_and, if_true, ne_eq, not_false_eq_true, and_self]
  · rw [if_neg ended]
    simp only [State.ownSlotEnded, ended, false_and, if_false]

theorem State.slotEnd_eq (s : State) (o : Occasion) (k : Nat) : s.slotEnd o k =
    if s.line.timingHeld = true ∧ k ≠ s.own then (s.ownSlotEnded k).missCheck o k else s.ownSlotEnded k :=
  (congrArg (fun t : State => if t.line.timingHeld = true ∧ k ≠ t.own then t.missCheck o k else t)
    (s.ownSlotEnded_eq k)).symm

/-- A peer entry after the miss check of its slot (R107). -/
def Peer.checked (p : Peer) : Peer := if p.presence = .present ∧ p.heard = false then p.missed else p

/-- The miss check of slot `k` (R107): it marks entry `k` alone, and PEER_LOST is set at the third miss in a row. -/
structure State.MissChecked (s : State) (k : Nat) (t : State) : Prop extends State.BoundaryFrame s t where
  line : t.line = s.line
  receiver : t.receiver = s.receiver
  peers : t.peers = s.peers.modify k Peer.checked
  lost : ∀ p, s.peers[k]? = some p → p.presence = .present ∧ p.heard = false → 2 ≤ p.misses →
    t.flagSet .peerLost = true

theorem State.missChecked_of_unmissed {s : State} {k : Nat}
    (h : ∀ p, s.peers[k]? = some p → ¬ (p.presence = .present ∧ p.heard = false)) : s.MissChecked k s where
  toBoundaryFrame := .refl s
  line := rfl
  receiver := rfl
  peers := by
    refine List.ext_getElem? fun i => ?_
    rw [List.getElem?_modify]
    split
    · subst k
      cases hp : s.peers[i]? with
      | none => rfl
      | some p => exact congrArg some (if_neg (h p hp)).symm
    · simp
  lost p hp missed _ := absurd missed (h p hp)

theorem State.missCheck_checks (s : State) (o : Occasion) (k : Nat) : s.MissChecked k (s.missCheck o k) := by
  unfold State.missCheck
  split
  · rename_i p hp
    split
    · rename_i missed
      let marked := (s.updatePeer k Peer.missed).setFlagIf (decide (3 ≤ p.misses + 1)) .peerLost
      obtain ⟨judged, line, receiver, peers⟩ := State.BoundaryFrame.judgeAll marked o
      have frame : s.BoundaryFrame marked :=
        (State.BoundaryFrame.updatePeer s k Peer.missed).trans (State.BoundaryFrame.setFlagIf _ _ _)
      have same : marked.line = s.line ∧ marked.receiver = s.receiver ∧
          marked.peers = s.peers.modify k Peer.missed := by
        simp only [marked, State.setFlagIf_eq]
        exact ⟨rfl, rfl, rfl⟩
      refine ⟨frame.trans judged, line.trans same.1, receiver.trans same.2.1, ?_, fun q hq _ third => ?_⟩
      · rw [peers, same.2.2]
        refine List.ext_getElem? fun i => ?_
        rw [List.getElem?_modify, List.getElem?_modify]
        split
        · subst k
          rw [hp]
          exact congrArg some (if_pos missed).symm
        · rfl
      · obtain rfl : p = q := Option.some.inj (hp.symm.trans hq)
        refine judged.flag _ ?_
        simp only [marked, decide_eq_true (show 3 ≤ p.misses + 1 by omega), State.setFlagIf_true]
        exact State.flagSet_setFlag _ _
    · rename_i heard
      exact State.missChecked_of_unmissed fun q hq => by
        obtain rfl : p = q := Option.some.inj (hp.symm.trans hq)
        exact heard
  · rename_i hp
    exact State.missChecked_of_unmissed fun q hq => by simp [hp] at hq

/-- The end of slot `k` while timing is held: the own frame in it ends, or the miss check of another slot is made. -/
structure State.SlotEnded (s : State) (k : Nat) (t : State) : Prop extends State.BoundaryFrame s t where
  line : t.line = (s.ownSlotEnded k).line
  receiver : t.receiver = (s.ownSlotEnded k).receiver
  peers : t.peers = if k = s.own then s.peers else s.peers.modify k Peer.checked
  lost : ∀ p, s.peers[k]? = some p → k ≠ s.own ∧ p.presence = .present ∧ p.heard = false → 2 ≤ p.misses →
    t.flagSet .peerLost = true

theorem State.slotEnd_ends {s : State} (h : s.line.timingHeld = true) (o : Occasion) (k : Nat) :
    s.SlotEnded k (s.slotEnd o k) := by
  have ended : s.BoundaryFrame (s.ownSlotEnded k) := State.BoundaryFrame.setLine s _ _
  rw [State.slotEnd_eq]
  by_cases own : k = s.own
  · rw [if_neg fun other => other.2 own]
    exact ⟨ended, rfl, rfl, (if_pos own).symm, fun _ _ missed => absurd own missed.1⟩
  · rw [if_pos ⟨h, own⟩]
    have check := (s.ownSlotEnded k).missCheck_checks o k
    exact ⟨ended.trans check.toBoundaryFrame, check.line, check.receiver, check.peers.trans (if_neg own).symm,
      fun p hp missed => check.lost p hp missed.2⟩

/-! ### The start of a slot (R122, R123, R128) -/

/-- The start of slot `k` at instant `t`, but for the listen period. -/
def State.slotBegun (s : State) (k t : Nat) : State :=
  { s.updatePeer k (fun p => { p with heard := false }) with
    line := { s.line with
      slotTimer := some { slot := k, start := t }
      cycle := if s.line.timingHeld && decide (k = 0) then s.line.cycle + 1 else s.line.cycle } }

theorem State.slotStart_eq (s : State) (o : Occasion) (k t : Nat) : s.slotStart o k t =
    if s.line.timingHeld then (s.slotBegun k t).countListen o else s.slotBegun k t := rfl

/-- Line access after a slot of the listen period has been counted in a shelf of size `n` (R128). -/
def LineAccess.slotCounted (l : LineAccess) (n : Nat) (pending : Bool) : LineAccess :=
  { l with
    listenCount := if l.phase = .listen ∧ l.listenCount < n then l.listenCount + 1 else l.listenCount
    phase := if (l.phase = .listen ∧ l.listenCount < n) ∧ l.listenCount + 1 = n ∧ pending = false then .active
      else l.phase }

/-- The start of slot `k` at instant `t` while timing is held. -/
structure State.SlotStarted (s : State) (k t : Nat) (u : State) : Prop extends State.BoundaryFrame s u where
  line : u.line = (s.slotBegun k t).line.slotCounted s.shelfSize s.startup.restartPending
  receiver : u.receiver = s.receiver
  peers : u.peers = s.peers.modify k (fun p => { p with heard := false })

theorem State.countListen_counts (s : State) (o : Occasion) : s.BoundaryFrame (s.countListen o) ∧
    (s.countListen o).line = s.line.slotCounted s.shelfSize s.startup.restartPending ∧
    (s.countListen o).receiver = s.receiver ∧ (s.countListen o).peers = s.peers := by
  unfold State.countListen LineAccess.slotCounted
  dsimp only
  split
  · rename_i counts
    split
    · rename_i active
      let t : State := { s with line := { s.line with listenCount := s.line.listenCount + 1, phase := .active } }
      have moves : t.MovesTo (t.settle o) := t.settle_moves o
      refine ⟨(State.BoundaryFrame.setLine s t.line s.receiver).trans (.ofMoves moves), moves.line.trans ?_,
        moves.receiver, moves.peers⟩
      rw [if_pos ⟨counts, active⟩]
    · rename_i listens
      refine ⟨State.BoundaryFrame.setLine s _ _, ?_, rfl, rfl⟩
      rw [if_neg fun h => listens h.2]
  · rename_i idle
    refine ⟨.refl s, ?_, rfl, rfl⟩
    rw [if_neg fun h => idle h.1]

theorem State.slotStart_starts {s : State} (h : s.line.timingHeld = true) (o : Occasion) (k t : Nat) :
    s.SlotStarted k t (s.slotStart o k t) := by
  have begun : s.BoundaryFrame (s.slotBegun k t) :=
    (State.BoundaryFrame.updatePeer s k _).trans (State.BoundaryFrame.setLine _ _ _)
  obtain ⟨counted, line, receiver, peers⟩ := (s.slotBegun k t).countListen_counts o
  rw [State.slotStart_eq, if_pos h]
  exact ⟨begun.trans counted, line, receiver, peers⟩

/-! ### The boundary of two slots -/

theorem execSlotBoundary_stopped {s : State} (h : s.line.slotTimer = none) (o : Occasion) :
    execSlotBoundary o s = .next (s.after o) := by
  unfold execSlotBoundary
  simp only [State.after, h]

/-- The slot after slot `k` in a shelf of size `n`. -/
def slotAfter (n k : Nat) : Nat := if k + 1 < n then k + 1 else 0

theorem execSlotBoundary_running {s : State} {t : SlotTimer} (h : s.line.slotTimer = some t) (o : Occasion) :
    let v := (s.after o).notBefore (t.start + 7200)
    execSlotBoundary o s =
      if o.startFirst then .next ((v.slotStart o (slotAfter s.shelfSize t.slot) (t.start + 7200)).slotEnd o t.slot)
      else .next ((v.slotEnd o t.slot).slotStart o (slotAfter s.shelfSize t.slot) (t.start + 7200)) := by
  unfold execSlotBoundary
  simp only [State.after, h]
  rfl

section
variable {s : State} (h : s.line.timingHeld = false) (o : Occasion)
include h

theorem State.slotEnd_untimed (k : Nat) : s.slotEnd o k = s.ownSlotEnded k := by
  rw [State.slotEnd_eq, if_neg fun timed => Bool.false_ne_true (h.symm.trans timed.1)]

theorem State.slotStart_untimed (k t : Nat) :
    s.slotStart o k t = { s.updatePeer k (fun p => { p with heard := false }) with
      line := { s.line with slotTimer := some { slot := k, start := t } } } := by
  rw [State.slotStart_eq, if_neg fun timed => Bool.false_ne_true (h.symm.trans timed)]
  simp [State.slotBegun, h]

end

/-- Settles O36: without timing neither half is handed to another block, and their order makes no difference. -/
theorem untimedSlotBoundary : Obligations.UntimedSlotBoundary := by
  refine fun o s => ⟨fun h => execSlotBoundary_stopped h o, fun t ht untimed => ?_⟩
  refine (execSlotBoundary_running ht o).trans ?_
  have waited : ((s.after o).notBefore (t.start + 7200)).line.timingHeld = false := untimed
  rw [State.slotStart_untimed waited, State.slotEnd_untimed waited, State.slotStart_untimed, State.slotEnd_untimed]
  · exact ite_self _
  · exact untimed
  · exact untimed

/-! ### The boundary while timing is held -/

/-- Both halves of the boundary from slot `k` to slot `next`, which starts at `t`, while timing is held. -/
structure State.SlotPassed (s : State) (k next t : Nat) (u : State) : Prop extends State.BoundaryFrame s u where
  line : u.line = ((s.ownSlotEnded k).slotBegun next t).line.slotCounted s.shelfSize s.startup.restartPending
  receiver : u.receiver = (s.ownSlotEnded k).receiver
  peers : u.peers = (if k = s.own then s.peers else s.peers.modify k Peer.checked).modify next
    (fun p => { p with heard := false })
  lost : ∀ p, s.peers[k]? = some p → k ≠ s.own ∧ p.presence = .present ∧ p.heard = false → 2 ≤ p.misses →
    u.flagSet .peerLost = true

theorem State.SlotEnded.startsNext {s v u : State} {k next t : Nat} (h : s.SlotEnded k v) (g : v.SlotStarted next t u) :
    s.SlotPassed k next t u where
  toBoundaryFrame := h.toBoundaryFrame.trans g.toBoundaryFrame
  line := by
    rw [g.line, State.shelfSize_congr h.startup, h.startup]
    simp only [State.slotBegun, h.line]
  receiver := g.receiver.trans h.receiver
  peers := by rw [g.peers, h.peers]
  lost p hp missed third := g.flag _ (h.lost p hp missed third)

theorem State.SlotStarted.endsOld {s v u : State} {k next t : Nat} (apart : k ≠ next) (h : s.SlotStarted next t v)
    (g : v.SlotEnded k u) : s.SlotPassed k next t u where
  toBoundaryFrame := h.toBoundaryFrame.trans g.toBoundaryFrame
  line := by
    rw [g.line]
    simp only [State.ownSlotEnded, State.own_congr h.startup, h.line]
    rfl
  receiver := by
    rw [g.receiver]
    simp only [State.ownSlotEnded, State.own_congr h.startup, h.line, h.receiver]
    rfl
  peers := by
    rw [g.peers, h.peers, State.own_congr h.startup]
    split
    · rfl
    · exact List.modify_modify_ne _ _ _ apart.symm
  lost p hp missed third := by
    refine g.lost p ?_ (by rwa [State.own_congr h.startup]) third
    rw [h.peers, List.getElem?_modify_ne _ _ apart.symm, hp]

/-- Whichever half the occasion takes first, a timed boundary is the end of one slot and the start of the next. -/
theorem execSlotBoundary_passes {s : State} {t : SlotTimer} (ht : s.line.slotTimer = some t)
    (timed : s.line.timingHeld = true) (apart : t.slot ≠ slotAfter s.shelfSize t.slot) (o : Occasion) :
    ∃ u, execSlotBoundary o s = .next u ∧
      State.SlotPassed ((s.after o).notBefore (t.start + 7200)) t.slot (slotAfter s.shelfSize t.slot) (t.start + 7200)
        u := by
  rw [execSlotBoundary_running ht]
  generalize hv : (s.after o).notBefore (t.start + 7200) = v
  have held : v.line.timingHeld = true := by subst hv; exact timed
  split
  · have starts := State.slotStart_starts held o (slotAfter s.shelfSize t.slot) (t.start + 7200)
    exact ⟨_, rfl, starts.endsOld apart (State.slotEnd_ends (by rw [starts.line]; exact held) o t.slot)⟩
  · have ends := State.slotEnd_ends held o t.slot
    exact ⟨_, rfl, ends.startsNext (State.slotStart_starts (by rw [ends.line]; exact held) o _ _)⟩

/-- The entry of a peer after the boundary from slot `k` to slot `next` of a station `own`. -/
theorem peers_slotPassed {l : List Peer} {own k next : Nat} (apart : k ≠ next) {i : Nat} {p : Peer}
    (hp : l[i]? = some p) :
    ((if k = own then l else l.modify k Peer.checked).modify next (fun p => { p with heard := false }))[i]? =
      some (if i = next then { p with heard := false } else if i = k ∧ k ≠ own then p.checked else p) := by
  have entry : (if k = own then l else l.modify k Peer.checked)[i]? =
      some (if i = k ∧ k ≠ own then p.checked else p) := by
    by_cases ho : k = own
    · rw [if_pos ho, if_neg fun h => h.2 ho, hp]
    · rw [if_neg ho, List.getElem?_modify, hp]
      by_cases hi : k = i
      · simp [hi.symm, ho]
      · simp [hi, Ne.symm hi]
  rw [List.getElem?_modify, entry]
  by_cases hi : i = next
  · subst hi
    simp [apart.symm]
  · simp [hi, Ne.symm hi]

/-- Settles O37: the fields of both halves are read off, whichever comes first. -/
theorem timedSlotBoundary : Obligations.TimedSlotBoundary := by
  intro o s t ht timed inShelf shelf next counts ended missed
  have apart : t.slot ≠ next := by simp only [next]; split <;> omega
  obtain ⟨u, runs, passed⟩ := execSlotBoundary_passes ht timed apart o
  have line := passed.line
  refine ⟨u, runs, passed.now, passed.pending, passed.startup, ?_, ?_, ?_, fun h => ?_, fun h => ?_,
    fun h full free => ?_, fun h => ?_, ?_, ?_, passed.receiver, fun i p hp => ?_, passed.lost, passed.zone, passed.rail⟩
  · rw [line]
    rfl
  · rw [line]
    exact timed
  · rw [line]
    simp only [State.slotBegun, LineAccess.slotCounted, State.ownSlotEnded, State.notBefore_line, State.after_line,
      timed, Bool.true_and, decide_eq_true_eq]
    rfl
  · rw [line]
    exact if_pos h
  · rw [line]
    exact if_neg h
  · rw [line]
    exact if_pos ⟨h, full, free⟩
  · rw [line]
    exact if_neg h
  · rw [line]
    change (if t.slot = s.own ∧ s.line.send ≠ .idle then SendState.idle else s.line.send) = _
    by_cases idle : s.line.send = .idle <;> simp [idle]
  · rw [line]
    rfl
  · refine ⟨_, (congrArg (·[i]?) passed.peers).trans (peers_slotPassed apart hp), fun hi hm => ?_, fun hi hm => ?_,
      fun hi => ?_, fun hk hn => ?_⟩
    · subst hi
      rw [if_neg apart, if_pos ⟨rfl, hm.1⟩]
      exact if_pos hm.2
    · subst hi
      rw [if_neg apart]
      split
      · rename_i other
        exact if_neg fun h => hm ⟨other.2, h⟩
      · rfl
    · exact if_pos hi
    · rw [if_neg hn, if_neg fun h => hk h.1]

end Sys2Proof.Machine

/-! Proofs about the own frame on the line: its bits, the bytes cut from them, and the frame as it is built. -/

namespace Sys2Proof.Machine
open Sys2Proof

/-! ### Pieces of one length -/

/-- In a list made of pieces of length `n`, place `k` is place `k % n` of piece `k / n`. -/
theorem getElem?_flatMap_of_length {α β : Type} {f : α → List β} {n : Nat} (hn : 0 < n) (hf : ∀ a, (f a).length = n)
    (l : List α) (k : Nat) : (l.flatMap f)[k]? = l[k / n]?.bind (fun a => (f a)[k % n]?) := by
  induction l generalizing k with
  | nil => rfl
  | cons a l ih =>
    rw [List.flatMap_cons, List.getElem?_append, hf]
    split
    · rename_i first
      rw [Nat.div_eq_of_lt first, Nat.mod_eq_of_lt first]
      rfl
    · rename_i later
      obtain ⟨m, rfl⟩ := Nat.exists_eq_add_of_le (Nat.le_of_not_lt later)
      rw [ih, Nat.add_sub_cancel_left, Nat.add_mod_left, Nat.add_div_left m hn]
      rfl

/-! ### The bits of a frame (R119) -/

theorem byteBits_length (b : Byte) : (byteBits b).length = 10 := rfl

theorem lineBits_getElem? (bs : List Byte) (k : Nat) :
    (lineBits bs)[k]? = bs[k / 10]?.bind (fun b => (byteBits b)[k % 10]?) :=
  getElem?_flatMap_of_length (by omega) byteBits_length bs k

/-- The dominant bits of a byte: its start bit and its data bits 0. -/
theorem byteBits_dominant_iff (b : Byte) {j : Nat} (hj : j < 10) :
    (byteBits b)[j]? = some false ↔ j = 0 ∨ (1 ≤ j ∧ j ≤ 8 ∧ b.getLsbD (j - 1) = false) := by
  interval_cases j <;> simp [byteBits]

theorem State.drivesDominant_iff (s : State) : s.drivesDominant = true ↔
    s.line.send = .sending ∧ ∃ f, s.line.tx = some f ∧ (lineBits f.bytes)[(s.now - f.start) / 16]? = some false := by
  unfold State.drivesDominant
  split
  · rename_i f hs hf
    simp [hs, hf, Config.us]
  · rename_i other
    simp only [Bool.false_eq_true, false_iff]
    rintro ⟨hs, f, hf, -⟩
    exact other f hs hf

theorem lineBits_dominant_iff (bs : List Byte) (k : Nat) : (lineBits bs)[k]? = some false ↔
    ∃ b, bs[k / 10]? = some b ∧ (k % 10 = 0 ∨ (1 ≤ k % 10 ∧ k % 10 ≤ 8 ∧ b.getLsbD (k % 10 - 1) = false)) := by
  rw [lineBits_getElem?, Option.bind_eq_some_iff]
  exact exists_congr fun b => and_congr_right' (byteBits_dominant_iff b (Nat.mod_lt k (by omega)))

/-! ### The bytes cut from the line (R143) -/

/-- The level of the line in the middle of bit `i`. -/
theorem lineLevels_middle (bits : List Bool) (i : Nat) : (lineLevels bits)[Config.us i + 8]? = bits[i]? := by
  have piece : (Config.us i + 8) / Config.us 1 = i ∧ (Config.us i + 8) % Config.us 1 = 8 := by
    unfold Config.us
    omega
  unfold lineLevels
  rw [getElem?_flatMap_of_length (n := Config.us 1) (by decide) (fun _ => List.length_replicate), piece.1, piece.2]
  cases bits[i]? <;> rfl

/-- A byte is the sum of its bits' weights. -/
theorem byte_eq_sum (b : Byte) : BitVec.ofNat 8
    ((if b.getLsbD 0 then 1 else 0) + (if b.getLsbD 1 then 2 else 0) + (if b.getLsbD 2 then 4 else 0)
      + (if b.getLsbD 3 then 8 else 0) + (if b.getLsbD 4 then 16 else 0) + (if b.getLsbD 5 then 32 else 0)
      + (if b.getLsbD 6 then 64 else 0) + (if b.getLsbD 7 then 128 else 0)) = b := by
  have weight {i w : Nat} (hw : 2 ^ i = w) : (if b.getLsbD i then w else 0) = w * (b.toNat / w % 2) := by
    rw [← BitVec.testBit_toNat, Nat.testBit_eq_decide_div_mod_eq, hw]
    rcases Nat.mod_two_eq_zero_or_one (b.toNat / w) with h | h <;> simp [h]
  have bound := b.isLt
  rw [weight (i := 0) (w := 1) rfl, weight (i := 1) (w := 2) rfl, weight (i := 2) (w := 4) rfl,
    weight (i := 3) (w := 8) rfl, weight (i := 4) (w := 16) rfl, weight (i := 5) (w := 32) rfl,
    weight (i := 6) (w := 64) rfl, weight (i := 7) (w := 128) rfl]
  refine BitVec.eq_of_toNat_eq ?_
  rw [BitVec.toNat_ofNat]
  omega

theorem lineLevels_append (l m : List Bool) : lineLevels (l ++ m) = lineLevels l ++ lineLevels m := List.flatMap_append

theorem lineLevels_length (bits : List Bool) : (lineLevels bits).length = 16 * bits.length := by
  simp [lineLevels, Config.us, List.length_flatMap, Nat.mul_comm]

/-- The byte at the edge of a sent byte's start bit is that byte, with a sound stop bit. -/
theorem byteAtEdge_sent (b : Byte) (l : List Bool) :
    byteAtEdge (lineLevels (byteBits b ++ l)) = { data := b, stopGood := true } := by
  have mid (i : Nat) : (lineLevels (byteBits b ++ l)).getD (Config.us i + 8) true = (byteBits b ++ l).getD i true := by
    rw [List.getD_eq_getElem?_getD, List.getD_eq_getElem?_getD, lineLevels_middle]
  unfold byteAtEdge
  simp only [mid]
  exact congrArg (RxByte.mk · true) (byte_eq_sum b)

/-- A byte whose start bit is dominant at its middle is cut, and the search goes on after its stop bit. -/
theorem cutFrom_startBit (fuel quiet : Nat) {l : List Bool} (edge : l[0]? = some false) (middle : l[8]? = some false) :
    cutFrom (fuel + 1) quiet l = byteAtEdge l :: cutFrom fuel 0 (l.drop 160) := by
  cases l with
  | nil => simp at edge
  | cons x l =>
    obtain rfl : x = false := by simpa using edge
    have sound : (false :: l).getD 8 true = false := by rw [List.getD_eq_getElem?_getD, middle]; rfl
    exact if_neg fun h => Bool.false_ne_true (sound.symm.trans h)

theorem cutFrom_sent (bs : List Byte) {fuel : Nat} (h : bs.length ≤ fuel) :
    cutFrom fuel 0 (lineLevels (lineBits bs)) = bs.map (fun b => { data := b, stopGood := true }) := by
  induction bs generalizing fuel with
  | nil => cases fuel <;> rfl
  | cons b bs ih =>
    cases fuel with
    | zero => simp at h
    | succ fuel =>
      have levels : lineLevels (lineBits (b :: bs)) = lineLevels (byteBits b ++ lineBits bs) := rfl
      have next : (lineLevels (byteBits b ++ lineBits bs)).drop 160 = lineLevels (lineBits bs) := by
        rw [lineLevels_append]
        exact List.drop_left' (by rw [lineLevels_length, byteBits_length])
      rw [levels, cutFrom_startBit fuel 0 rfl rfl, byteAtEdge_sent, next, ih (Nat.le_of_succ_le_succ h)]
      rfl

/-- Settles O51, by induction on the bytes: each is cut at its own edge, and the next one begins where it ends. -/
theorem lineRoundTrip : Obligations.LineRoundTrip := by
  intro bs
  refine cutFrom_sent bs ?_
  have bits : (lineBits bs).length = 10 * bs.length := by
    simp [lineBits, List.length_flatMap, byteBits_length, Nat.mul_comm]
  rw [lineLevels_length, bits]
  omega

/-! ### The frame that is built (R131, R113, R98) -/

/-- A zone mask names the zones it was made of. -/
theorem zoneMask_getLsbD (f : ZoneIx → Bool) (z : ZoneIx) : (zoneMask f).getLsbD z.toNat = f z := by
  have weight (y : ZoneIx) (w : Nat) : (if f y then w else 0) = w * (f y).toNat := by cases f y <;> simp
  have bit (y : ZoneIx) : (f y).toNat ≤ 1 := Bool.toNat_le (f y)
  have value : f z = decide ((f z).toNat = 1) := by cases f z <;> rfl
  have b0 := bit .z0; have b1 := bit .z1; have b2 := bit .z2; have b3 := bit .z3
  have b4 := bit .z4; have b5 := bit .z5; have b6 := bit .z6; have b7 := bit .z7
  unfold zoneMask
  rw [BitVec.getLsbD_ofNat, Nat.testBit_eq_decide_div_mod_eq, decide_eq_true (ZoneIx.toNat_lt z), Bool.true_and, value,
    decide_eq_decide]
  simp only [ZoneIx.all, List.map_cons, List.map_nil, List.sum_cons, List.sum_nil, weight]
  cases z <;> simp only [ZoneIx.toNat] <;> omega

theorem execFrameBuild_notDue {s : State} {img : Image} {t : SlotTimer} (hc : s.startup.config = some img)
    (ht : s.line.slotTimer = some t) (h : ¬ (t.slot = s.own ∧ s.buildDue = true)) (o : Occasion) :
    execFrameBuild o s = .next (s.after o) := by
  unfold execFrameBuild
  simp only [State.after, hc, ht]
  exact if_neg h

/-- The state after the frame `f` has been built at instant `now` and its sending has begun. -/
def State.frameBegun (s : State) (now : Nat) (f : Frame) : State :=
  { s with
    now := now
    peers := s.peers.modify s.own (Peer.built f)
    zones := { s.zones with
      lastPart := if f.leaving then s.zones.lastPart else s.nextPartZone.getD s.zones.lastPart }
    line := { s.line with
      send := .sending, tx := some { bytes := f.toBytes, start := now, leaving := f.leaving } }
    receiver := { s.receiver with reception := .blocked } }

theorem execFrameBuild_due {s : State} {img : Image} {t : SlotTimer} (hc : s.startup.config = some img)
    (ht : s.line.slotTimer = some t) (h : t.slot = s.own ∧ s.buildDue = true) (o : Occasion) :
    execFrameBuild o s = .next (s.frameBegun (max (s.now + o.wait) (t.start + 160))
      (s.buildFrame img (decide (s.line.leaving = .due)))) := by
  unfold execFrameBuild
  simp only [State.after, hc, ht]
  exact if_pos h

theorem State.buildDue_iff (s : State) : s.buildDue = true ↔ s.line.phase = .active ∧ s.line.timingHeld = true ∧
    s.line.send = .idle ∧ ¬ (s.startup.restartPending = true ∧ s.line.leaving = .done) := by
  cases hr : s.startup.restartPending <;> simp [State.buildDue, hr, and_assoc]

/-- Settles O38: the level of the line by the bit running, the frame and the state after its build by `frameBegun`. -/
theorem frameBuildSendsTheStateAsItStands : Obligations.FrameBuildSendsTheStateAsItStands := by
  refine ⟨fun s => ?_, fun o s img t hc ht => ⟨fun h => ?_, fun h => ?_⟩⟩
  · rw [State.drivesDominant_iff]
    simp only [lineBits_dominant_iff, exists_and_left]
  · exact execFrameBuild_notDue hc ht (by rwa [State.buildDue_iff]) o
  · refine ⟨s.buildFrame img (decide (s.line.leaving = .due)), _,
      execFrameBuild_due hc ht (by rwa [State.buildDue_iff]) o, BitVec.ofNat_toNat _ _, rfl, rfl, rfl, fun r => ?_, rfl,
      fun z => ⟨?_, ?_⟩, rfl, rfl, rfl⟩
    · exact Four.get_of _ r
    · exact Eight.get_of _ z
    · exact zoneMask_getLsbD _ z

end Sys2Proof.Machine

/-! Proofs about the eight checks of a received frame: they are made in order. -/

namespace Sys2Proof.Machine
open Sys2Proof

/-! ### Checks made in order (R145) -/

/-- `w` is what a list of checks makes of a frame: the error kind of the first one whose fault is there, and `v` where
none is. -/
def Verdict.FirstFault (v w : Verdict) : List (Prop × ErrorKind) → Prop
  | [] => w = v
  | p :: l => (p.1 → w = .refused p.2) ∧ (¬ p.1 → v.FirstFault w l)

namespace Verdict.FirstFault
variable {v w : Verdict} {p : Prop × ErrorKind}

theorem ite {l : List (Prop × ErrorKind)} {c : Prop} [Decidable c] (hc : c ↔ p.1) (h : ¬ p.1 → v.FirstFault w l) :
    v.FirstFault (if c then .refused p.2 else w) (p :: l) := by
  refine ⟨fun hp => if_pos (hc.2 hp), fun hp => ?_⟩
  rw [if_neg (mt hc.1 hp)]
  exact h hp

theorem refused {passed rest : List (Prop × ErrorKind)} (h : v.FirstFault w (passed ++ p :: rest))
    (hq : ∀ q ∈ passed, ¬ q.1) (hp : p.1) : w = .refused p.2 := by
  induction passed with
  | nil => exact h.1 hp
  | cons q passed ih =>
    obtain ⟨hq, others⟩ := List.forall_mem_cons.1 hq
    exact ih (h.2 hq) others

theorem passed {l : List (Prop × ErrorKind)} (h : v.FirstFault w l) (hq : ∀ q ∈ l, ¬ q.1) : w = v := by
  induction l with
  | nil => exact h
  | cons q l ih =>
    obtain ⟨hq, others⟩ := List.forall_mem_cons.1 hq
    exact ih (h.2 hq) others

end Verdict.FirstFault

/-! ### The length of a frame and its CRC (R144, R147) -/

/-- The length a flags byte gives its frame (R144). -/
def flaggedLength (flags : Byte) : Nat := 21 + holdCount flags + (if flags.getLsbD 4 then 8 else 0)

theorem le_flaggedLength (flags : Byte) : 21 ≤ flaggedLength flags := by
  unfold flaggedLength
  omega

theorem expectedLength_flagged {bs : List Byte} (h : 3 ≤ bs.length) : expectedLength bs =
    if 8 < holdCount (byteAt bs 2) then none else some (flaggedLength (byteAt bs 2)) :=
  if_neg (by omega)

theorem shortOfExpected_iff (bs : List Byte) : shortOfExpected bs = true ↔
    bs.length < 3 ∨ (holdCount (byteAt bs 2) ≤ 8 ∧ bs.length < flaggedLength (byteAt bs 2)) := by
  unfold shortOfExpected
  by_cases short : bs.length < 3
  · simp [expectedLength, short]
  · rw [expectedLength_flagged (by omega)]
    by_cases many : 8 < holdCount (byteAt bs 2)
    · simp [many]
    · simp [many, short, Nat.le_of_not_lt many]

theorem crcSound_iff (bs : List Byte) {n : Nat} (h : 3 ≤ n) : crcSound bs n = true ↔
    crc ((bs.take (n - 2)).drop 1) = byteAt bs (n - 2) ++ byteAt bs (n - 1) := by
  have last : n - 2 + 1 = n - 1 := by omega
  rw [crcSound, beq_iff_eq, halfAt, last, List.drop_take]
  rfl

/-! ### The eight checks (R145, Table 36) -/

/-- The faults that the eight checks look for, in the order of Table 36, each with its error kind. -/
def frameFaults (img : Image) (own : Nat) (rx : List RxByte) : List (Prop × ErrorKind) :=
  let bs := rx.map (·.data)
  let n := flaggedLength (byteAt bs 2)
  [(byteAt bs 0 ≠ Config.startByte, .badStart),
   (∃ b ∈ rx, b.stopGood = false, .framing),
   (bs.length < 3 ∨ (holdCount (byteAt bs 2) ≤ 8 ∧ bs.length < n), .truncated),
   (8 < holdCount (byteAt bs 2), .badLength),
   (crc ((bs.take (n - 2)).drop 1) ≠ byteAt bs (n - 2) ++ byteAt bs (n - 1), .badCheck),
   (halfAt bs 3 ≠ img.signature, .foreign),
   (img.shelfSize ≤ (byteAt bs 1).toNat, .badStation),
   ((byteAt bs 1).toNat = own, .duplicate)]

theorem judgeFrame_firstFault (img : Image) (own : Nat) (rx : List RxByte) :
    (Verdict.valid (Frame.ofBytes ((rx.map (·.data)).take (flaggedLength (byteAt (rx.map (·.data)) 2))))).FirstFault
      (judgeFrame img own rx) (frameFaults img own rx) := by
  unfold judgeFrame frameFaults
  dsimp only
  generalize rx.map (·.data) = bs
  have checked := crcSound_iff bs (Nat.le_trans (by omega) (le_flaggedLength (byteAt bs 2)))
  refine .ite Iff.rfl fun _ => .ite (by simp) fun _ => .ite (shortOfExpected_iff bs) fun long => ?_
  rw [expectedLength_flagged (by omega)]
  by_cases many : 8 < holdCount (byteAt bs 2)
  · rw [if_pos many]
    exact ⟨fun _ => rfl, absurd many⟩
  · rw [if_neg many]
    refine ⟨fun h => absurd h many, fun _ => .ite ?_ fun _ => .ite Iff.rfl fun _ => .ite Iff.rfl fun _ =>
      .ite Iff.rfl fun _ => rfl⟩
    rw [Bool.not_eq_true', ← Bool.not_eq_true, checked]

/-- Settles O52: the verdict is that of the first fault in the list of Table 36. -/
theorem frameChecksInOrder : Obligations.FrameChecksInOrder := by
  intro img own rx
  have judged := judgeFrame_firstFault img own rx
  refine ⟨fun passed p rest split hq hp => ?_, fun none => judged.passed none⟩
  rw [show frameFaults img own rx = passed ++ p :: rest from split] at judged
  exact judged.refused hq hp

end Sys2Proof.Machine

/-! Proofs about the end of a reception: the frame it completes or breaks off, and what a refused frame changes. -/

namespace Sys2Proof.Machine
open Sys2Proof

/-! ### The end of a reception (R144) -/

/-- `n` bytes on the line, 10 µs each. -/
theorem us_bytes (n : Nat) : Config.us (10 * n) = 160 * n := by
  unfold Config.us
  omega

section
variable {s : State} {t₀ : Nat} (h : s.receiver.reception = .receiving t₀) (o : Occasion)
include h

theorem execFrameReceived_complete {rx : List RxByte} (complete : expectedLength (rx.map (·.data)) = some rx.length) :
    execFrameReceived o rx s = .next
      (((s.after o).notBefore (t₀ + 160 * rx.length)).judgeReceived o t₀
        (some (max (s.now + o.wait) (t₀ + 160 * rx.length))) rx) := by
  unfold execFrameReceived
  simp [h, complete, us_bytes]

theorem execReceptionGap_nothing : execReceptionGap o [] s = .next { s with
    now := max (s.now + o.wait) (t₀ + 320), receiver := { s.receiver with reception := .waiting none } } := by
  unfold execReceptionGap
  simp [h, Config.us, Config.frameGap, State.after, State.notBefore]

theorem execReceptionGap_bytes {rx : List RxByte} (cut : rx ≠ []) : execReceptionGap o rx s = .next
    (((s.after o).notBefore (t₀ + 160 * rx.length + 320)).judgeReceived o t₀ none rx) := by
  unfold execReceptionGap
  simp [h, cut, us_bytes, show Config.frameGap = 320 from rfl]

end

theorem execReception_ignored {s : State} (h : ∀ t₀, s.receiver.reception ≠ .receiving t₀) (o : Occasion)
    (rx : List RxByte) :
    execReceptionGap o rx s = .next (s.after o) ∧ execFrameReceived o rx s = .next (s.after o) := by
  unfold execReceptionGap execFrameReceived
  cases hr : s.receiver.reception <;> simp_all

/-! ### A refused frame (R149, R136, R137) -/

/-- `s` with a frame refused for `e`: the error kind kept and counted, the receiver waiting, and the mute cause. -/
def State.frameRefused (s : State) (ended : Option Nat) (e : ErrorKind) (cause : MuteCause) : State :=
  { s with receiver := { s.receiver with
      reception := .waiting ended, lastError := e, receiveErrors := min 255 (s.receiver.receiveErrors + 1)
      muteCause := cause } }

theorem State.judgeReceived_refused {s : State} {img : Image} (hc : s.startup.config = some img) {rx : List RxByte}
    {e : ErrorKind} (h : judgeFrame img s.own rx = .refused e) (o : Occasion) (t₀ : Nat) (ended : Option Nat) :
    s.judgeReceived o t₀ ended rx =
      if e = .duplicate then (s.frameRefused ended e s.receiver.muteCause).takeDuplicate o
      else s.frameRefused ended e s.receiver.muteCause := by
  unfold State.judgeReceived
  simp only [hc, h]
  rfl

/-- What a frame refused for `e` makes of `s`. -/
structure State.Refused (o : Occasion) (s : State) (ended : Option Nat) (e : ErrorKind) (u : State) : Prop where
  counted : e ≠ .duplicate → u = s.frameRefused ended e s.receiver.muteCause
  muted : e = .duplicate → s.line.phase = .muted → u = s.frameRefused ended e .duplicate
  heard : e = .duplicate → s.line.phase = .listen ∨ s.line.phase = .active →
    State.SettlesTo o { s.frameRefused ended e .duplicate with
      peers := s.peersSilent, line := s.line.muted, port := { s.port with flags := s.port.flags ||| 0x020 } } u

theorem State.judgeReceived_refuses {s : State} {img : Image} (hc : s.startup.config = some img) {rx : List RxByte}
    {e : ErrorKind} (h : judgeFrame img s.own rx = .refused e) (o : Occasion) (t₀ : Nat) (ended : Option Nat) :
    s.Refused o ended e (s.judgeReceived o t₀ ended rx) := by
  rw [State.judgeReceived_refused hc h]
  refine ⟨fun he => if_neg he, fun he hp => ?_, fun he hp => ?_⟩
  · have muted : (s.frameRefused ended e s.receiver.muteCause).line.phase = .muted := hp
    rw [if_pos he, State.takeDuplicate, muted]
    rfl
  · have mutes : (s.frameRefused ended e s.receiver.muteCause).takeDuplicate o =
        ((s.frameRefused ended e s.receiver.muteCause).enterMuted .duplicate).settle o := by
      unfold State.takeDuplicate
      rcases hp with hp | hp <;> simp [State.frameRefused, hp]
    rw [if_pos he, mutes, State.enterMuted_muted]
    exact State.settle_settlesTo _ o

/-- Settles O44: a frame received whole and one ended by a gap differ in the instant of their judgement alone. -/
theorem refusedFrameIsCounted : Obligations.RefusedFrameIsCounted := by
  refine ⟨fun o rx s img t₀ e hc hr judged => ⟨fun complete => ?_, fun cut => ?_⟩, fun o s rx =>
    ⟨fun t₀ hr => execReceptionGap_nothing hr o, fun hr => execReception_ignored hr o rx⟩⟩
  · have refused := ((s.after o).notBefore (t₀ + 160 * rx.length)).judgeReceived_refuses hc judged o t₀
      (some (max (s.now + o.wait) (t₀ + 160 * rx.length)))
    exact ⟨_, execFrameReceived_complete hr o complete, refused.counted, refused.muted, refused.heard⟩
  · have refused := ((s.after o).notBefore (t₀ + 160 * rx.length + 320)).judgeReceived_refuses hc judged o t₀ none
    exact ⟨_, execReceptionGap_bytes hr o cut, refused.counted, refused.muted, refused.heard⟩

end Sys2Proof.Machine

/-! Proofs about a valid frame: what each of the three blocks makes of it, and what is then so in whatever order they
take it. -/

namespace Sys2Proof.Machine
open Sys2Proof

/-! ### What no block does on a valid frame -/

/-- `y` is rail record `x` but for the conditions judged from the peer table. -/
def Rail.SameButConditions (x y : Rail) : Prop :=
  ∃ good up held, y = { x with remoteGood := good, remoteUp := up, peerHeld := held }

theorem Rail.SameButConditions.refl (x : Rail) : x.SameButConditions x := ⟨_, _, _, rfl⟩

theorem Rail.SameButConditions.trans {x y z : Rail} (h : x.SameButConditions y) (k : y.SameButConditions z) :
    x.SameButConditions z := by
  obtain ⟨_, _, _, rfl⟩ := h
  obtain ⟨_, _, _, rfl⟩ := k
  exact ⟨_, _, _, rfl⟩

/-- What holds of the state before and the state after any of the blocks takes a valid frame: no flag is cleared, a rail
that falls goes on falling, no rail enters FAULT, and a rail that was enabled is enabled or has begun to fall now. -/
structure State.FrameKeeps (s t : State) : Prop where
  pending : t.pending = s.pending
  now : t.now = s.now
  startup : t.startup = s.startup
  phase : t.line.phase = s.line.phase
  ownDemand : t.zones.ownDemand = s.zones.ownDemand
  lastPart : t.zones.lastPart = s.zones.lastPart
  flag : ∀ f, s.flagSet f = true → t.flagSet f = true
  faultKind : ∀ r, (t.rails.get r).faultKind = (s.rails.get r).faultKind
  falling : ∀ r, (s.rails.get r).state = .falling → (s.rails.get r).SameButConditions (t.rails.get r)
  unfaulted : ∀ r, (s.rails.get r).state ≠ .fault → (t.rails.get r).state ≠ .fault
  enabled : ∀ r c, s.fittedConfig r = some c → (s.rails.get r).state.enabled = true →
    (t.rails.get r).state.enabled = true ∨
      ((t.rails.get r).state = .falling ∧
        (t.rails.get r).discharge = some { start := s.now, length := c.dischargeTimeout })

/-- The state that a row of Table 10 leads to is not FAULT, and from an enabled one it is enabled or FALLING. -/
theorem State.Reaction.outcome {s u : State} {r : RailIx} {c : RailConfig} (h : s.Reaction r c u) :
    (u.rails.get r).state ≠ .fault ∧ ((s.rails.get r).state.enabled = true →
      (u.rails.get r).state.enabled = true ∨ (u.rails.get r).state = .falling) := by
  cases h with
  | opens hs => rcases s.enterWaiting_state c r with e | e | e <;> simp [e, hs, RailState.enabled]
  | starts hs => rcases s.enterSettling_state c r with e | e <;> simp [e, hs, RailState.enabled]
  | drains => rcases s.enterDraining_state c r with e | e <;> simp [e, RailState.enabled]
  | loses => simp [s.enterFalling_state]
  | released => simp [s.release_state]
  | returns => simp [RailState.enabled]
  | shuts hs => rcases hs with hs | hs <;> simp [hs, RailState.enabled]
  | waits hs => simp [hs, RailState.enabled]

namespace State.FrameKeeps

theorem trans {s t u : State} (h : s.FrameKeeps t) (k : t.FrameKeeps u) : s.FrameKeeps u where
  pending := k.pending.trans h.pending
  now := k.now.trans h.now
  startup := k.startup.trans h.startup
  phase := k.phase.trans h.phase
  ownDemand := k.ownDemand.trans h.ownDemand
  lastPart := k.lastPart.trans h.lastPart
  flag f hf := k.flag f (h.flag f hf)
  faultKind r := (k.faultKind r).trans (h.faultKind r)
  falling r hr := by
    have first := h.falling r hr
    have state : (t.rails.get r).state = .falling := by
      obtain ⟨_, _, _, e⟩ := first
      rw [e]
      exact hr
    exact first.trans (k.falling r state)
  unfaulted r hr := k.unfaulted r (h.unfaulted r hr)
  enabled r c hc hr := by
    rcases h.enabled r c hc hr with on | ⟨falls, discharge⟩
    · rw [← h.now]
      exact k.enabled r c ((State.fittedConfig_congr h.startup r).trans hc) on
    · obtain ⟨_, _, _, e⟩ := k.falling r falls
      rw [e]
      exact .inr ⟨falls, discharge⟩

/-- Nothing of a rail changes but its conditions. -/
theorem ofConditions {s t : State} (pending : t.pending = s.pending) (now : t.now = s.now)
    (startup : t.startup = s.startup) (phase : t.line.phase = s.line.phase)
    (ownDemand : t.zones.ownDemand = s.zones.ownDemand) (lastPart : t.zones.lastPart = s.zones.lastPart)
    (flag : ∀ f, s.flagSet f = true → t.flagSet f = true)
    (rails : ∀ r, (s.rails.get r).SameButConditions (t.rails.get r)) : s.FrameKeeps t := by
  refine ⟨pending, now, startup, phase, ownDemand, lastPart, flag, fun r => ?_, fun r _ => rails r, fun r hr => ?_,
    fun r c _ hr => .inl ?_⟩ <;> obtain ⟨_, _, _, e⟩ := rails r <;> rw [e]
  · exact hr
  · exact hr

theorem refl (s : State) : s.FrameKeeps s :=
  ofConditions rfl rfl rfl rfl rfl rfl (fun _ h => h) fun _ => .refl _

theorem setLine {s : State} {l : LineAccess} (h : l.phase = s.line.phase) (x : Receiver) :
    s.FrameKeeps { s with line := l, receiver := x } :=
  ofConditions rfl rfl rfl h rfl rfl (fun _ h => h) fun _ => .refl _

theorem takeView (s : State) (v : View) : s.FrameKeeps (s.takeView v) := by
  have view := s.takeView_sameButView v
  exact ofConditions (by cases v <;> rfl) view.now view.startup (by rw [view.line]) view.ownDemand
    (by cases v <;> rfl) (State.BoundaryFrame.takeView s v).flag (s.takeView_rail v)

theorem react {s u : State} {o : Occasion} {q : RailIx} (h : s.react o q = some u) : s.FrameKeeps u := by
  have moves := State.MovesTo.react h
  obtain ⟨d, hd, row⟩ := State.react_reaction h
  have others (r : RailIx) (e : r ≠ q) : u.rails.get r = s.rails.get r := (State.react_sameRail h r e).1
  refine ⟨moves.pending, moves.now, moves.startup, by rw [moves.line], by rw [moves.zones], by rw [moves.zones],
    fun _ hf => moves.flagSet hf, fun r => (moves.kept r).2.2.2, fun r hr => ?_, fun r hr => ?_, fun r c hc hr => ?_⟩
  · rw [(moves.still r (.inr (.inl hr))).1]
    exact .refl _
  · by_cases e : r = q
    · exact e ▸ row.outcome.1
    · rwa [others r e]
  · by_cases e : r = q
    · subst e
      refine (row.outcome.2 hr).imp_right fun falls => ⟨falls, ?_⟩
      rcases (State.RailsEnter.react h).rails r with same | ⟨c', hc', entered, -⟩
      · rw [same.1] at falls
        simp [falls, RailState.enabled] at hr
      · obtain rfl : c = c' := Option.some.inj (hc.symm.trans hc')
        rw [entered.discharge, if_pos falls]
    · rw [others r e]
      exact .inl hr

theorem ofMoves {o : Occasion} {s t : State} (h : Relation.ReflTransGen (State.MovesOnce o) s t) : s.FrameKeeps t := by
  induction h with
  | refl => exact refl s
  | tail _ h ih =>
    obtain ⟨r, hr⟩ := h
    exact ih.trans (react hr)

theorem settle (s : State) (o : Occasion) : s.FrameKeeps (s.settle o) := ofMoves (s.settle_reaches o)

theorem judgeAll (s : State) (o : Occasion) : s.FrameKeeps (s.judgeAll o) :=
  State.judgeAll_keeps_of (P := s.FrameKeeps) (fun t v h => h.trans ((takeView t v).trans (settle _ o))) (refl s)

end State.FrameKeeps

/-! ### The peer table (R104, R106) -/

/-- The peer table and the flags of a frame, before the view is judged. -/
def State.reported (s : State) (f : Frame) : State :=
  ((s.updatePeer f.station.toNat (Peer.taking f)).setFlagIf
      (decide (s.presenceOf f.station.toNat = some .lost) && !f.leaving) .peerFound).setFlagIf
    (decide (s.presenceOf f.station.toNat = some .present) && f.leaving) .peerLost

theorem State.takeReport_eq (s : State) (o : Occasion) (f : Frame) : s.takeReport o f = (s.reported f).judgeAll o := rfl

namespace State.reported
variable (s : State) (f : Frame)

theorem boundary : s.BoundaryFrame (s.reported f) :=
  ((State.BoundaryFrame.updatePeer s _ _).trans (State.BoundaryFrame.setFlagIf _ _ _)).trans
    (State.BoundaryFrame.setFlagIf _ _ _)

theorem fields : (s.reported f).line = s.line ∧ (s.reported f).receiver = s.receiver ∧
    (s.reported f).rails = s.rails ∧ (s.reported f).zones = s.zones ∧
    (s.reported f).peers = s.peers.modify f.station.toNat (Peer.taking f) := by
  unfold State.reported
  simp only [State.setFlagIf_eq]
  exact ⟨rfl, rfl, rfl, rfl, rfl⟩

theorem keeps : s.FrameKeeps (s.reported f) := by
  obtain ⟨line, -, rails, zones, -⟩ := fields s f
  have frame := boundary s f
  exact .ofConditions frame.pending frame.now frame.startup (by rw [line]) (by rw [zones]) (by rw [zones]) frame.flag
    fun r => by rw [rails]; exact .refl _

/-- PEER_FOUND when a LOST peer returns, and PEER_LOST when a PRESENT one leaves (R104, R106). -/
theorem flags {p : Peer} (hp : s.peers[f.station.toNat]? = some p) :
    (p.presence = .lost → f.leaving = false → (s.reported f).flagSet .peerFound = true) ∧
    (p.presence = .present → f.leaving = true → (s.reported f).flagSet .peerLost = true) := by
  have presence : s.presenceOf f.station.toNat = some p.presence := by simp [State.presenceOf, hp]
  refine ⟨fun was stays => ?_, fun was leaves => ?_⟩
  · unfold State.reported
    refine (State.BoundaryFrame.setFlagIf _ _ _).flag _ ?_
    simpa [presence, was, stays] using State.flagSet_setFlag _ _
  · unfold State.reported
    simpa [presence, was, leaves] using State.flagSet_setFlag _ _

end State.reported

/-! ### Line access (R125, R126, R151) -/

/-- A frame is in its slot when it starts within 20 µs of 10 µs after some start of the slot by the slot timer. -/
theorem inSlotWindow_iff (t : SlotTimer) {n : Nat} (hn : 1 ≤ n) (k t₀ : Nat) : inSlotWindow t n k t₀ = true ↔
    ∃ cycles : Int, |(t₀ : Int) - (t.start + ((k : Int) - t.slot) * 7200 + cycles * (n * 7200) + 160)| ≤ 320 := by
  have window : inSlotWindow t n k t₀ = true ↔
      ((t₀ : Int) - 160 - t.start - (k - t.slot) * 7200) % (n * 7200) ≤ 320 ∨
        (n * 7200 : Int) - 320 ≤ ((t₀ : Int) - 160 - t.start - (k - t.slot) * 7200) % (n * 7200) := by
    simp [inSlotWindow, Config.slotLength, Config.buildDelay, Config.syncTolerance, Config.us]
  rw [window]
  generalize hx : (t₀ : Int) - 160 - t.start - (k - t.slot) * 7200 = x
  generalize hm : (n * 7200 : Int) = m
  have period : 7200 ≤ m := by omega
  have apart (cycles : Int) : (t₀ : Int) - (t.start + ((k : Int) - t.slot) * 7200 + cycles * m + 160) =
      x - cycles * m := by omega
  simp only [apart, abs_le]
  have split := Int.emod_add_mul_ediv x m
  have low := Int.emod_nonneg x (by omega : m ≠ 0)
  have high := Int.emod_lt_of_pos x (by omega : 0 < m)
  constructor
  · rintro (early | late)
    · refine ⟨x / m, ?_⟩
      rw [Int.mul_comm (x / m) m]
      omega
    · refine ⟨x / m + 1, ?_⟩
      rw [Int.add_mul, Int.mul_comm (x / m) m]
      omega
  · rintro ⟨cycles, near⟩
    have same : x % m = (x - cycles * m) % m := (Int.sub_mul_emod_self_right x cycles m).symm
    rcases Int.lt_or_le (x - cycles * m) 0 with before | after
    · rw [same, ← Int.add_emod_right, Int.emod_eq_of_lt (by omega) (by omega)]
      exact .inr (by omega)
    · rw [same, Int.emod_eq_of_lt after (by omega)]
      exact .inl near.2

/-- What line access does with a frame of station `k` in its slot, or without timing held (R123, R125, R126). -/
def LineAccess.timed (l : LineAccess) (k t₀ : Nat) (cycle : Half) : LineAccess :=
  { l with
    slotTimer := some { slot := k, start := t₀ - 160 }, timingHeld := true, syncSinceLoad := true
    cycle := if cycleAhead cycle l.cycle then cycle else l.cycle, silence := none }

theorem State.takeTiming_inSlot {s : State} {t : SlotTimer} (ht : s.line.slotTimer = some t) {f : Frame} {t₀ : Nat}
    (h : s.line.timingHeld = false ∨ inSlotWindow t s.shelfSize f.station.toNat t₀ = true) :
    s.takeTiming f t₀ = { s with line := s.line.timed f.station.toNat t₀ f.cycle } := by
  unfold State.takeTiming
  simp only [ht]
  exact if_pos (by simpa using h)

theorem State.takeTiming_outOfSlot {s : State} {t : SlotTimer} (ht : s.line.slotTimer = some t) {f : Frame} {t₀ : Nat}
    (h : ¬ (s.line.timingHeld = false ∨ inSlotWindow t s.shelfSize f.station.toNat t₀ = true)) :
    s.takeTiming f t₀ = { s with receiver := { s.receiver with outOfSlot := min 255 (s.receiver.outOfSlot + 1) } } := by
  unfold State.takeTiming
  simp only [ht]
  exact if_neg (by simpa using h)

/-- Whatever it does, line access changes itself and the receiver alone, and not its phase. -/
theorem State.takeTiming_eq (s : State) (f : Frame) (t₀ : Nat) : ∃ l x, l.phase = s.line.phase ∧
    s.takeTiming f t₀ = { s with line := l, receiver := x } :=
  State.takeTiming_keeps_of (P := fun t => ∃ l x, l.phase = s.line.phase ∧ t = { s with line := l, receiver := x }) f t₀
    ⟨_, _, rfl, rfl⟩ (fun _ => ⟨_, _, rfl, rfl⟩) fun _ => ⟨_, _, rfl, rfl⟩

/-- What line access does depends on line access, the receiver and the shelf size alone. -/
theorem State.takeTiming_congr {s v : State} (line : v.line = s.line) (receiver : v.receiver = s.receiver)
    (shelf : v.shelfSize = s.shelfSize) (f : Frame) (t₀ : Nat) :
    (v.takeTiming f t₀).line = (s.takeTiming f t₀).line ∧
      (v.takeTiming f t₀).receiver = (s.takeTiming f t₀).receiver := by
  unfold State.takeTiming State.setTiming
  dsimp only
  rw [line, receiver, shelf]
  split
  · split <;> exact ⟨rfl, rfl⟩
  · exact ⟨line, receiver⟩

/-! ### The zone table (R85 to R90) -/

/-- An outcome with the entry's demand another. -/
def ZoneOutcome.withDemand (x : ZoneOutcome) (d : Bool) : ZoneOutcome :=
  { x with entry := { x.entry with demanded := d } }

/-- Demand takes no part in what a frame does to a zone. -/
theorem compareZone_withDemand (e : Zone) (g : Byte) (tripped : Bool) (part : Option TripRecord) (d : Bool) :
    compareZone { e with demanded := d } g tripped part = (compareZone e g tripped part).withDemand d := by
  unfold compareZone
  dsimp only
  split
  · split <;> rfl
  · split
    · split
      · rfl
      · split <;> rfl
    · rfl

theorem adoptZone_withDemand (e : Zone) (g : Byte) (tripped : Bool) (part : Option TripRecord) (d : Bool) :
    adoptZone { e with demanded := d } g tripped part = (adoptZone e g tripped part).withDemand d := by
  cases tripped <;> rfl

/-- What a frame does to a zone depends on its generation, condition and record, the phase and the shelf size. -/
theorem State.zoneOutcome_congr {s t : State} (startup : t.startup = s.startup) (phase : t.line.phase = s.line.phase)
    {z : ZoneIx} (zone : (t.zones.entries.get z).generation = (s.zones.entries.get z).generation ∧
      (t.zones.entries.get z).condition = (s.zones.entries.get z).condition ∧
      (t.zones.entries.get z).record = (s.zones.entries.get z).record) (f : Frame) :
    t.zoneOutcome f z = (s.zoneOutcome f z).withDemand (t.zones.entries.get z).demanded := by
  obtain ⟨generation, condition, record⟩ := zone
  have entry : t.zones.entries.get z =
      { s.zones.entries.get z with demanded := (t.zones.entries.get z).demanded } := by
    dsimp only
    rw [← generation, ← condition, ← record]
  unfold State.zoneOutcome
  rw [entry, phase, State.shelfSize_congr startup]
  dsimp only
  split
  · exact adoptZone_withDemand _ _ _ _ _
  · exact compareZone_withDemand _ _ _ _ _

/-- A zone whose rails a frame moves is TRIPPED after it. -/
theorem State.zoneOutcome_tripped {s : State} {f : Frame} {z : ZoneIx} (h : (s.zoneOutcome f z).moved = true) :
    (s.zoneOutcome f z).entry.condition = .tripped := by
  have compare (e : Zone) (g : Byte) (b : Bool) (p : Option TripRecord) (h : (compareZone e g b p).moved = true) :
      (compareZone e g b p).entry.condition = .tripped := by
    revert h
    unfold compareZone
    split
    · split <;> simp
    · split
      · split
        · simp
        · split <;> simp [ZoneOutcome.unchanged]
      · simp [ZoneOutcome.unchanged]
  have adopt (e : Zone) (g : Byte) (b : Bool) (p : Option TripRecord) (h : (adoptZone e g b p).moved = true) :
      (adoptZone e g b p).entry.condition = .tripped := by
    cases b
    · cases h
    · rfl
  unfold State.zoneOutcome at h ⊢
  dsimp only at h ⊢
  split
  · rename_i hl
    rw [if_pos hl] at h
    exact adopt _ _ _ _ h
  · rename_i hl
    rw [if_neg hl] at h
    exact compare _ _ _ _ h

section
variable {s : State} {f : Frame} {r : RailIx}

theorem State.framedRail_unfitted (hc : s.fittedConfig r = none) : s.framedRail f r = s.rails.get r := by
  simp [State.framedRail, hc]

variable {c : RailConfig} (hc : s.fittedConfig r = some c)
include hc

theorem State.framedRail_released (hr : (s.rails.get r).state = .fault)
    (released : (s.zoneOutcome f c.zone).released = true) :
    s.framedRail f r = (s.rails.get r).entered .off s.now := by
  have still : ((s.rails.get r).entered .off s.now).takenDown c .trip s.now = (s.rails.get r).entered .off s.now := rfl
  simp [State.framedRail, hc, hr, released, still]

theorem State.framedRail_faulted (hr : (s.rails.get r).state = .fault)
    (kept : (s.zoneOutcome f c.zone).released = false) : s.framedRail f r = s.rails.get r := by
  simp [State.framedRail, hc, kept, Rail.takenDown_fault _ _ _ _ hr]

theorem State.framedRail_unfaulted (hr : (s.rails.get r).state ≠ .fault) : s.framedRail f r =
    if (s.zoneOutcome f c.zone).moved = true then (s.rails.get r).takenDown c .trip s.now else s.rails.get r := by
  simp [State.framedRail, hc, hr]

end

theorem Rail.takenDown_of_enabled {x : Rail} (h : x.state.enabled = true) (c : RailConfig) (k : FallCause) (now : Nat) :
    (x.takenDown c k now).state = .falling ∧
    (x.takenDown c k now).discharge = some { start := now, length := c.dischargeTimeout } ∧
    (x.takenDown c k now).fallCause = k := by
  rcases (RailState.enabled_iff _).1 h with e | e | e <;> simp [Rail.takenDown, e]

theorem Rail.takenDown_of_starting {x : Rail} (h : x.state = .waiting ∨ x.state = .settling) (c : RailConfig)
    (k : FallCause) (now : Nat) : (x.takenDown c k now).state = .off := by
  rcases h with e | e <;> simp [Rail.takenDown, e]

theorem Rail.takenDown_faultKind (x : Rail) (c : RailConfig) (k : FallCause) (now : Nat) :
    (x.takenDown c k now).faultKind = x.faultKind := by
  unfold Rail.takenDown
  split <;> rfl

theorem Rail.takenDown_unfaulted {x : Rail} (h : x.state ≠ .fault) (c : RailConfig) (k : FallCause) (now : Nat) :
    (x.takenDown c k now).state ≠ .fault := by
  unfold Rail.takenDown
  split <;> simp_all

namespace State.framed
variable (s : State) (f : Frame)

theorem rail (r : RailIx) : (s.framed f).rails.get r = s.framedRail f r := Four.get_of _ r

theorem entry (z : ZoneIx) : (s.framed f).zones.entries.get z = (s.zoneOutcome f z).entry := Eight.get_of _ z

theorem flags (z : ZoneIx) :
    ((s.zoneOutcome f z).trippedFlag = true → (s.framed f).flagSet .zoneTripped = true) ∧
    ((s.zoneOutcome f z).clearedFlag = true → (s.framed f).flagSet .zoneCleared = true) := by
  refine ⟨fun h => ?_, fun h => ?_⟩
  · have any : ZoneIx.all.any (fun z => (s.zoneOutcome f z).trippedFlag) = true :=
      List.any_eq_true.2 ⟨z, z.mem_all, h⟩
    refine State.flagSet_or (s := s.setFlag .zoneTripped)
      (if ZoneIx.all.any (fun z => (s.zoneOutcome f z).clearedFlag) then 0x004 else 0) ?_ (State.flagSet_setFlag s _)
    simp only [State.framed, any, if_true]
    rfl
  · have any : ZoneIx.all.any (fun z => (s.zoneOutcome f z).clearedFlag) = true :=
      List.any_eq_true.2 ⟨z, z.mem_all, h⟩
    have set := State.flagSet_setFlag { s with port := { s.port with flags := s.port.flags |||
      (if ZoneIx.all.any (fun z => (s.zoneOutcome f z).trippedFlag) then 0x002 else 0) } } .zoneCleared
    simp only [State.framed, any, if_true]
    exact set

theorem keeps : s.FrameKeeps (s.framed f) := by
  refine ⟨rfl, rfl, rfl, rfl, rfl, rfl, fun g hg => ?_, fun r => ?_, fun r hr => ?_, fun r hr => ?_,
    fun r c hc hr => ?_⟩
  · exact State.flagSet_or _ (BitVec.or_assoc _ _ _) hg
  all_goals rw [rail]
  · cases hc : s.fittedConfig r with
    | none => rw [State.framedRail_unfitted hc]
    | some c =>
      unfold State.framedRail
      simp only [hc]
      split <;> split <;> simp [Rail.takenDown_faultKind, Rail.entered]
  · refine (?_ : s.framedRail f r = s.rails.get r) ▸ .refl _
    cases hc : s.fittedConfig r with
    | none => exact State.framedRail_unfitted hc
    | some c => rw [State.framedRail_unfaulted hc (by simp [hr]), Rail.takenDown_still _ _ _ _ (.inl hr), ite_self]
  · cases hc : s.fittedConfig r with
    | none => rwa [State.framedRail_unfitted hc]
    | some c =>
      rw [State.framedRail_unfaulted hc hr]
      split
      · exact Rail.takenDown_unfaulted hr _ _ _
      · exact hr
  · have up : (s.rails.get r).state ≠ .fault := fun e => by simp [e, RailState.enabled] at hr
    rw [State.framedRail_unfaulted hc up]
    split
    · obtain ⟨falls, discharge, -⟩ := Rail.takenDown_of_enabled hr c .trip s.now
      exact .inr ⟨falls, discharge⟩
    · exact .inl hr

end State.framed

/-! ### What line access and the peer table leave to the zone table -/

/-- What moves, line access and the peer table keep of the zones and the rails: no zone changes but in its shelf demand,
no rail leaves FALLING or FAULT, and a rail in OFF stays there while its zone is TRIPPED. -/
structure State.ZonesStay (s t : State) : Prop extends State.BoundaryFrame s t where
  off : ∀ r c, s.fittedConfig r = some c → s.zoneNormal c.zone = false → (s.rails.get r).state = .off →
    (t.rails.get r).state = .off

namespace State.ZonesStay

theorem trans {s t u : State} (h : s.ZonesStay t) (k : t.ZonesStay u) : s.ZonesStay u where
  toBoundaryFrame := h.toBoundaryFrame.trans k.toBoundaryFrame
  off r c hc hz hr := by
    refine k.off r c ((State.fittedConfig_congr h.startup r).trans hc) ?_ (h.off r c hc hz hr)
    rw [← hz, State.zoneNormal, State.zoneNormal, (h.zone c.zone).2.1]

theorem ofRails {s t : State} (h : s.BoundaryFrame t) (rails : t.rails = s.rails) : s.ZonesStay t :=
  ⟨h, fun r _ _ _ hr => by rwa [rails]⟩

theorem refl (s : State) : s.ZonesStay s := ofRails (.refl s) rfl

theorem settle (s : State) (o : Occasion) : s.ZonesStay (s.settle o) where
  toBoundaryFrame := .ofMoves (s.settle_moves o)
  off r c hc hz hr := by
    have barred : s.barred c := .inl hz
    rw [(State.settle_sameRail_off hc hr barred.gateClosed o).1]
    exact hr

theorem takeView (s : State) (v : View) : s.ZonesStay (s.takeView v) where
  toBoundaryFrame := .takeView s v
  off r _ _ _ hr := by
    obtain ⟨_, _, _, e⟩ := s.takeView_rail v r
    rw [e]
    exact hr

theorem takeReport (s : State) (o : Occasion) (f : Frame) : s.ZonesStay (s.takeReport o f) := by
  rw [State.takeReport_eq]
  have reported : s.ZonesStay (s.reported f) :=
    ofRails (State.reported.boundary s f) (State.reported.fields s f).2.2.1
  exact State.judgeAll_keeps_of (P := s.ZonesStay) (fun t v h => h.trans ((takeView t v).trans (settle _ o))) reported

theorem takeTiming (s : State) (f : Frame) (t₀ : Nat) : s.ZonesStay (s.takeTiming f t₀) := by
  obtain ⟨l, x, -, e⟩ := s.takeTiming_eq f t₀
  rw [e]
  exact ofRails (.setLine s l x) rfl

end State.ZonesStay

/-! ### One block -/

section
variable (s : State) (o : Occasion) (f : Frame) (t₀ : Nat) (b : Block)

theorem State.handTo_keeps : s.FrameKeeps (s.handTo o f t₀ b) := by
  cases b with
  | lineAccess =>
    obtain ⟨l, x, phase, e⟩ := s.takeTiming_eq f t₀
    rw [State.handTo, e]
    exact .setLine phase x
  | peerTable => exact (State.reported.keeps s f).trans (.judgeAll _ o)
  | zoneTable =>
    rw [State.handTo, State.takeZoneBytes_eq]
    exact (State.framed.keeps s f).trans (.settle _ o)

variable {b}

theorem State.handTo_zonesStay (h : b ≠ .zoneTable) : s.ZonesStay (s.handTo o f t₀ b) := by
  cases b with
  | lineAccess => exact .takeTiming s f t₀
  | peerTable => exact .takeReport s o f
  | zoneTable => exact absurd rfl h

theorem State.takeReport_tables : (s.takeReport o f).line = s.line ∧ (s.takeReport o f).receiver = s.receiver ∧
    (s.takeReport o f).peers = s.peers.modify f.station.toNat (Peer.taking f) := by
  obtain ⟨line, receiver, -, -, peers⟩ := State.reported.fields s f
  obtain ⟨-, line', receiver', peers'⟩ := State.BoundaryFrame.judgeAll (s.reported f) o
  exact ⟨line'.trans line, receiver'.trans receiver, peers'.trans peers⟩

theorem State.handTo_peers (h : b ≠ .peerTable) : (s.handTo o f t₀ b).peers = s.peers := by
  cases b with
  | lineAccess =>
    obtain ⟨l, x, -, e⟩ := s.takeTiming_eq f t₀
    rw [State.handTo, e]
  | peerTable => exact absurd rfl h
  | zoneTable => exact (State.RailsEnter.takeZoneBytes s o f).peers

theorem State.handTo_line (h : b ≠ .lineAccess) :
    (s.handTo o f t₀ b).line = s.line ∧ (s.handTo o f t₀ b).receiver = s.receiver := by
  cases b with
  | lineAccess => exact absurd rfl h
  | peerTable =>
    obtain ⟨line, receiver, -⟩ := s.takeReport_tables o f
    exact ⟨line, receiver⟩
  | zoneTable =>
    have enters := State.RailsEnter.takeZoneBytes s o f
    exact ⟨enters.line, enters.receiver⟩

end

/-! ### The three blocks in their order (R150) -/

/-- The blocks of a list take the frame, one after another. -/
def State.handAll (s : State) (o : Occasion) (f : Frame) (t₀ : Nat) (l : List Block) : State :=
  l.foldl (fun t b => t.handTo o f t₀ b) s

/-- What each block of a list keeps, the list keeps. -/
theorem State.handAll_keeps_of {P : State → Prop} {o : Occasion} {f : Frame} {t₀ : Nat} {l : List Block}
    (hP : ∀ t b, b ∈ l → P t → P (t.handTo o f t₀ b)) {s : State} (h : P s) : P (s.handAll o f t₀ l) := by
  induction l generalizing s with
  | nil => exact h
  | cons b l ih =>
    exact ih (fun t c hc => hP t c (List.mem_cons_of_mem b hc)) (hP s b List.mem_cons_self h)

theorem State.handAll_keeps (s : State) (o : Occasion) (f : Frame) (t₀ : Nat) (l : List Block) :
    s.FrameKeeps (s.handAll o f t₀ l) :=
  State.handAll_keeps_of (P := s.FrameKeeps) (fun t b _ h => h.trans (t.handTo_keeps o f t₀ b)) (.refl s)

/-- Block `b` takes the frame once, after the blocks `before` and before the blocks `later`. -/
structure BlocksAround (o : Occasion) (b : Block) (before later : List Block) : Prop where
  order : blockOrder o = before ++ b :: later
  notBefore : ∀ c ∈ before, c ≠ b
  notLater : ∀ c ∈ later, c ≠ b

theorem blocksAround_of_order {o : Occasion} {b : Block} {before later : List Block}
    (h : blockOrder o = before ++ b :: later) : BlocksAround o b before later := by
  have once : (before ++ b :: later).Nodup := h ▸ distinctEntries_nodup _
  obtain ⟨-, hl, apart⟩ := List.nodup_append.1 once
  refine ⟨h, fun c hc => apart c hc b List.mem_cons_self, fun c hc e => ?_⟩
  exact (List.nodup_cons.1 hl).1 (e ▸ hc)

theorem blocksAround_exists (o : Occasion) (b : Block) : ∃ before later, BlocksAround o b before later := by
  obtain ⟨before, later, h⟩ := List.append_of_mem (blockOrder_mem o b)
  exact ⟨before, later, blocksAround_of_order h⟩

theorem BlocksAround.takeFrame {o : Occasion} {b : Block} {before later : List Block}
    (h : BlocksAround o b before later) (s : State) (f : Frame) (t₀ : Nat) : s.takeFrame o f t₀ =
      (((s.handAll o f t₀ before).handTo o f t₀ b).handAll o f t₀ later) := by
  unfold State.takeFrame State.handAll
  rw [h.order, List.foldl_append, List.foldl_cons]

/-- Where the zone table goes before the peer table, no rail has moved when it does. -/
theorem BlocksAround.rails_before {o : Occasion} {before later : List Block}
    (h : BlocksAround o .zoneTable before later) (last : .peerTable ∈ later) (s : State) (f : Frame) (t₀ : Nat) :
    (s.handAll o f t₀ before).rails = s.rails := by
  have once : (before ++ .zoneTable :: later).Nodup := h.order ▸ distinctEntries_nodup _
  refine State.handAll_keeps_of (P := fun t => t.rails = s.rails) (fun t b hb ht => ?_) rfl
  cases b with
  | lineAccess =>
    obtain ⟨l, x, -, e⟩ := t.takeTiming_eq f t₀
    rw [State.handTo, e]
    exact ht
  | peerTable =>
    exact absurd rfl ((List.nodup_append.1 once).2.2 _ hb _ (List.mem_cons_of_mem _ last))
  | zoneTable => exact absurd rfl (h.notBefore _ hb)

section
variable (s : State) (o : Occasion) (f : Frame) (t₀ : Nat)

/-- The frame's report is in the peer table, with the flags it sets (R104, R106). -/
theorem State.takeFrame_peers {p : Peer} (hp : s.peers[f.station.toNat]? = some p) :
    (s.takeFrame o f t₀).peers = s.peers.set f.station.toNat (p.taking f) ∧
    (p.presence = .lost → f.leaving = false → (s.takeFrame o f t₀).flagSet .peerFound = true) ∧
    (p.presence = .present → f.leaving = true → (s.takeFrame o f t₀).flagSet .peerLost = true) := by
  obtain ⟨before, later, around⟩ := blocksAround_exists o .peerTable
  rw [around.takeFrame]
  have peers {l : List Block} (hl : ∀ b ∈ l, b ≠ .peerTable) (v : State) :
      (v.handAll o f t₀ l).peers = v.peers :=
    State.handAll_keeps_of (P := fun t => t.peers = v.peers)
      (fun t b hb ht => (t.handTo_peers o f t₀ (hl b hb)).trans ht) rfl
  have first := peers around.notBefore s
  have last := peers around.notLater ((s.handAll o f t₀ before).handTo o f t₀ .peerTable)
  generalize s.handAll o f t₀ before = v at first last ⊢
  rw [← first] at hp ⊢
  obtain ⟨-, -, reports⟩ := v.takeReport_tables o f
  have report : (v.reported f).FrameKeeps ((v.handTo o f t₀ .peerTable).handAll o f t₀ later) :=
    (State.FrameKeeps.judgeAll _ o).trans (State.handAll_keeps _ o f t₀ later)
  obtain ⟨found, lost⟩ := State.reported.flags v f hp
  refine ⟨?_, fun was stays => report.flag _ (found was stays), fun was leaves => report.flag _ (lost was leaves)⟩
  rw [last, State.handTo, reports, List.modify_eq_set_getElem?, hp]
  rfl

/-- Line access and the receiver are as line access alone leaves them. -/
theorem State.takeFrame_line : (s.takeFrame o f t₀).line = (s.takeTiming f t₀).line ∧
    (s.takeFrame o f t₀).receiver = (s.takeTiming f t₀).receiver := by
  obtain ⟨before, later, around⟩ := blocksAround_exists o .lineAccess
  rw [around.takeFrame]
  have line {l : List Block} (hl : ∀ b ∈ l, b ≠ .lineAccess) (v : State) :
      (v.handAll o f t₀ l).line = v.line ∧ (v.handAll o f t₀ l).receiver = v.receiver :=
    State.handAll_keeps_of (P := fun t => t.line = v.line ∧ t.receiver = v.receiver)
      (fun t b hb ⟨line, receiver⟩ =>
        have kept := t.handTo_line o f t₀ (hl b hb)
        ⟨kept.1.trans line, kept.2.trans receiver⟩) ⟨rfl, rfl⟩
  obtain ⟨line₁, receiver₁⟩ := line around.notBefore s
  obtain ⟨line₂, receiver₂⟩ := line around.notLater ((s.handAll o f t₀ before).handTo o f t₀ .lineAccess)
  have shelf := State.shelfSize_congr (s.handAll_keeps o f t₀ before).startup
  rw [line₂, receiver₂]
  exact State.takeTiming_congr line₁ receiver₁ shelf f t₀

end

/-! ### The zones and the rails after all three blocks -/

/-- The zone table takes the frame in state `v`, on the way from `s` to `u`. -/
structure State.ZonesTaken (f : Frame) (s v u : State) : Prop where
  before : s.FrameKeeps v
  zonesBefore : s.ZonesStay v
  after : (v.framed f).FrameKeeps u
  zonesAfter : (v.framed f).ZonesStay u

theorem BlocksAround.zonesTaken {o : Occasion} {before later : List Block}
    (h : BlocksAround o .zoneTable before later) (s : State) (f : Frame) (t₀ : Nat) :
    State.ZonesTaken f s (s.handAll o f t₀ before) (s.takeFrame o f t₀) := by
  have stay {l : List Block} (hl : ∀ b ∈ l, b ≠ .zoneTable) (v : State) : v.ZonesStay (v.handAll o f t₀ l) :=
    State.handAll_keeps_of (P := v.ZonesStay)
      (fun t b hb ht => ht.trans (t.handTo_zonesStay o f t₀ (hl b hb))) (.refl v)
  rw [h.takeFrame, State.handTo, State.takeZoneBytes_eq]
  exact ⟨s.handAll_keeps o f t₀ before, stay h.notBefore s,
    (State.FrameKeeps.settle _ o).trans (State.handAll_keeps _ o f t₀ later),
    (State.ZonesStay.settle _ o).trans (stay h.notLater _)⟩

namespace State.ZonesTaken
variable {f : Frame} {s v u : State} (h : State.ZonesTaken f s v u)
include h

theorem outcome (z : ZoneIx) :
    v.zoneOutcome f z = (s.zoneOutcome f z).withDemand (v.zones.entries.get z).demanded :=
  State.zoneOutcome_congr h.before.startup h.before.phase (h.zonesBefore.zone z) f

theorem keeps : s.FrameKeeps u := (h.before.trans (State.framed.keeps v f)).trans h.after

theorem zone (z : ZoneIx) :
    (u.zones.entries.get z).generation = (s.zoneOutcome f z).entry.generation ∧
    (u.zones.entries.get z).condition = (s.zoneOutcome f z).entry.condition ∧
    (u.zones.entries.get z).record = (s.zoneOutcome f z).entry.record ∧
    ((s.zoneOutcome f z).trippedFlag = true → u.flagSet .zoneTripped = true) ∧
    ((s.zoneOutcome f z).clearedFlag = true → u.flagSet .zoneCleared = true) := by
  obtain ⟨generation, condition, record⟩ := h.zonesAfter.zone z
  obtain ⟨tripped, cleared⟩ := State.framed.flags v f z
  rw [State.framed.entry, h.outcome] at generation condition record
  rw [h.outcome] at tripped cleared
  exact ⟨generation, condition, record, fun t => h.after.flag _ (tripped t), fun c => h.after.flag _ (cleared c)⟩

variable {r : RailIx} {c : RailConfig} (hc : s.fittedConfig r = some c)
include hc

theorem fitted : v.fittedConfig r = some c := (State.fittedConfig_congr h.before.startup r).trans hc

/-- A rail in FAULT leaves it where the frame releases its zone (R30). -/
theorem fault (hr : (s.rails.get r).state = .fault) :
    (u.rails.get r).state = .fault ↔ (s.zoneOutcome f c.zone).released = false := by
  have faulted : (v.rails.get r).state = .fault := (h.zonesBefore.rail r (.inr hr)).trans hr
  have released : (v.zoneOutcome f c.zone).released = (s.zoneOutcome f c.zone).released := by rw [h.outcome]; rfl
  rw [← released]
  cases hz : (v.zoneOutcome f c.zone).released with
  | true =>
    have off : ((v.framed f).rails.get r).state ≠ .fault := by
      rw [State.framed.rail, State.framedRail_released (h.fitted hc) faulted hz]
      simp [Rail.entered]
    simp [h.after.unfaulted r off]
  | false =>
    have stays : ((v.framed f).rails.get r).state = .fault := by
      rw [State.framed.rail, State.framedRail_faulted (h.fitted hc) faulted hz]
      exact faulted
    simp [h.zonesAfter.rail r (.inr stays), stays]

variable (moved : (s.zoneOutcome f c.zone).moved = true)
include moved

/-- A rail that is not in FAULT is taken down by a frame that moves its zone (R23). -/
theorem framedRail_moved (hr : (v.rails.get r).state ≠ .fault) :
    (v.framed f).rails.get r = (v.rails.get r).takenDown c .trip v.now := by
  have moves : (v.zoneOutcome f c.zone).moved = true := by rw [h.outcome]; exact moved
  rw [State.framed.rail, State.framedRail_unfaulted (h.fitted hc) hr, if_pos moves]

/-- A rail that was enabled has begun to fall, by the trip or before it. -/
theorem falls (hr : (s.rails.get r).state.enabled = true) : (u.rails.get r).state = .falling ∧
    (u.rails.get r).discharge = some { start := s.now, length := c.dischargeTimeout } := by
  have falling : ((v.framed f).rails.get r).state = .falling ∧ ((v.framed f).rails.get r).discharge =
      some { start := s.now, length := c.dischargeTimeout } := by
    rcases h.before.enabled r c hc hr with up | ⟨down, discharge⟩
    · rw [h.framedRail_moved hc moved (fun e => by simp [e, RailState.enabled] at up), h.before.now]
      obtain ⟨falling, discharge, -⟩ := Rail.takenDown_of_enabled up c .trip s.now
      exact ⟨falling, discharge⟩
    · rw [h.framedRail_moved hc moved (by simp [down]), Rail.takenDown_still _ _ _ _ (.inl down)]
      exact ⟨down, discharge⟩
  obtain ⟨_, _, _, e⟩ := h.after.falling r falling.1
  rw [e]
  exact falling

/-- With no rail moved before it, the trip is what an enabled rail falls by. -/
theorem fallCause (same : v.rails = s.rails) (hr : (s.rails.get r).state.enabled = true) :
    (u.rails.get r).fallCause = .trip := by
  rw [← same] at hr
  have down := h.framedRail_moved hc moved (fun e => by simp [e, RailState.enabled] at hr)
  obtain ⟨falling, -, cause⟩ := Rail.takenDown_of_enabled hr c .trip v.now
  rw [← down] at falling cause
  obtain ⟨_, _, _, e⟩ := h.after.falling r falling
  rw [e]
  exact cause

/-- With no rail moved before it, the trip turns a starting rail off, and the TRIPPED zone keeps it there. -/
theorem off (same : v.rails = s.rails) (hr : (s.rails.get r).state = .waiting ∨ (s.rails.get r).state = .settling) :
    (u.rails.get r).state = .off := by
  have tripped : (v.framed f).zoneNormal c.zone = false := by
    have condition := State.zoneOutcome_tripped moved
    rw [State.zoneNormal, State.framed.entry, h.outcome]
    simp [ZoneOutcome.withDemand, condition]
  refine h.zonesAfter.off r c (h.fitted hc) tripped ?_
  rw [← same] at hr
  rw [h.framedRail_moved hc moved (fun e => by simp [e] at hr)]
  exact Rail.takenDown_of_starting hr c .trip v.now

end State.ZonesTaken

/-! ### The frame received (R145, R150) -/

theorem State.judgeReceived_valid {s : State} {img : Image} (hc : s.startup.config = some img) {rx : List RxByte}
    {f : Frame} (h : judgeFrame img s.own rx = .valid f) (o : Occasion) (t₀ : Nat) (ended : Option Nat) :
    s.judgeReceived o t₀ ended rx =
      State.takeFrame { s with receiver := { s.receiver with reception := .waiting ended } } o f t₀ := by
  unfold State.judgeReceived
  simp only [hc, h]

/-- Settles O45: each block's own part is found by splitting the order at that block; what the others keep carries it
through. -/
theorem validFrameReachesThreeBlocks : Obligations.ValidFrameReachesThreeBlocks := by
  refine ⟨fun t n k t₀ hn => inSlotWindow_iff t hn k t₀, fun o rx s img t₀ f t hc hr judged complete ht table => ?_⟩
  dsimp only
  generalize hn : max (s.now + o.wait) (t₀ + 160 * rx.length) = now
  let heard : State := { s with
    now := now, receiver := { s.receiver with reception := .waiting (some now) } }
  have taken : execFrameReceived o rx s = .next (heard.takeFrame o f t₀) := by
    rw [execFrameReceived_complete hr o complete, State.judgeReceived_valid (s := (s.after o).notBefore _) hc judged]
    simp only [heard, ← hn]
    rfl
  refine ⟨heard.takeFrame o f t₀, taken, ?_⟩
  obtain ⟨before, later, around⟩ := blocksAround_exists o .zoneTable
  have zones := around.zonesTaken heard f t₀
  have keeps := zones.keeps
  obtain ⟨p, hp⟩ : ∃ p, s.peers[f.station.toNat]? = some p := by
    have sender := judgeFrame_station judged
    exact ⟨_, List.getElem?_eq_getElem (by omega)⟩
  obtain ⟨peers, found, lost⟩ := State.takeFrame_peers heard o f t₀ hp
  obtain ⟨line, receiver⟩ := State.takeFrame_line heard o f t₀
  refine ⟨keeps.now, keeps.pending, keeps.startup, ⟨p, _, hp, peers, rfl, found, lost⟩, fun z => ?_, keeps.ownDemand,
    keeps.lastPart, fun inSlot => ?_, fun outOfSlot => ?_, fun r falls => ?_, fun r c fitted => ⟨fun fault => ?_,
    fun moved up => ?_, fun moved zonesFirst starting => ?_⟩⟩
  · have zone := zones.zone z
    unfold State.zoneOutcome at zone
    simp only [ite_apply] at zone
    exact zone
  · rw [line, receiver, keeps.now, State.takeTiming_inSlot (s := heard) ht inSlot]
    exact ⟨rfl, rfl⟩
  · rw [line, receiver, keeps.now, State.takeTiming_outOfSlot (s := heard) ht outOfSlot]
    exact ⟨rfl, rfl⟩
  · obtain ⟨_, _, _, e⟩ := keeps.falling r falls
    rw [e]
  · exact ⟨keeps.faultKind r, zones.fault fitted fault⟩
  · have enabled := (RailState.enabled_iff _).2 up
    obtain ⟨falling, discharge⟩ := zones.falls fitted moved enabled
    refine ⟨falling, by rw [keeps.now]; exact discharge, fun ⟨l₁, l₂, order, last⟩ => ?_⟩
    have first := blocksAround_of_order order
    exact (first.zonesTaken heard f t₀).fallCause fitted moved (first.rails_before last heard f t₀) enabled
  · obtain ⟨l₁, l₂, order, last⟩ := zonesFirst
    have first := blocksAround_of_order order
    exact (first.zonesTaken heard f t₀).off fitted moved (first.rails_before last heard f t₀) starting

end Sys2Proof.Machine

/-! Proofs about the timing record queue: what joins it, what TAKE_RECORD removes, and that every record a step adds is
within the bounds of R157 (`State.Logs`). -/

namespace Sys2Proof.Machine
open Sys2Proof

/-! ### A record handed to the queue, and TAKE_RECORD (R159 to R162) -/

/-- Settles O35, by whether the queue has room. -/
theorem queueKeepsOldest : Obligations.QueueKeepsOldest := by
  intro s x
  refine ⟨fun room => ?_, fun full => ?_⟩
  · obtain ⟨records, flags⟩ := s.queueRecord_room x room
    rw [State.queueRecord_eq, records, flags]
    simp only [List.isEmpty_iff]
    rfl
  · obtain ⟨records, flags⟩ := s.queueRecord_full x full
    rw [State.queueRecord_eq, records, flags]
    rfl

/-- A command that nothing refuses acts at its execution (R183). -/
theorem portCommand_accepted {o : Occasion} {changes : Bool} {phases : LinePhase → Bool} {inRange : State → Bool}
    {act : State → State} {s : State} (hc : s.port.transaction = .command)
    (hr : refusal (s.after o) changes phases (inRange (s.after o)) = none) :
    portCommand o changes phases inRange act s = .next (act (s.after o)) := by
  unfold portCommand
  dsimp only
  rw [if_pos (show (s.after o).port.transaction = .command from hc), hr]

/-- A command that every phase and argument allows is refused with a restart pending only (R183). -/
theorem refusal_none {s : State} (hr : s.startup.restartPending = false) (changes : Bool) :
    refusal s changes anyPhase (anyArgument s) = none := by
  simp [refusal, hr, anyPhase, anyArgument]

theorem highByte_ofNat (n : Nat) : highByte (BitVec.ofNat 16 n) = toByte (n / 256) := by
  apply BitVec.eq_of_toNat_eq
  simp only [highByte, toByte, BitVec.extractLsb'_toNat, BitVec.toNat_ofNat, Nat.shiftRight_eq_div_pow]
  omega

theorem lowByte_ofNat (n : Nat) : lowByte (BitVec.ofNat 16 n) = toByte n := by
  apply BitVec.eq_of_toNat_eq
  simp only [lowByte, toByte, BitVec.extractLsb'_toNat, BitVec.toNat_ofNat, Nat.shiftRight_zero]
  omega

/-- Settles O15: the payload byte by byte, its width high byte first. -/
theorem takeRecordRemovesOldest : Obligations.TakeRecordRemovesOldest := by
  refine ⟨⟨rfl, rfl, fun _ => rfl, fun _ => rfl⟩, fun o s hc hp => ?_⟩
  have accepted := portCommand_accepted (o := o) (act := fun s =>
      match s.records.records with
      | x :: rest => ({ s with records := { s.records with records := rest } }).answer .ok
          (x.payload rest.length s.records.discarded)
      | [] => s.answer .empty (List.replicate 9 0 ++ [toByte s.records.discarded])) hc
    (refusal_none (s := s.after o) hp true)
  refine ⟨fun x rest hr => accepted.trans ?_, fun hr => accepted.trans ?_⟩
  · simp only [State.after_records, hr, TimingRecord.payload, twoBytes, highByte_ofNat, lowByte_ofNat]
    rfl
  · simp only [State.after_records, hr]
    rfl

/-! ### What a step may log -/

/-- The rails and their timers are as the manual has them, so that a width measured is within its bound. -/
def State.timed (s : State) : Prop := s.sound ∧ s.timersFit ∧ s.timersAgree

theorem State.Leads.timed {s t : State} (h : s.Leads t) (hs : s.timed) : t.timed :=
  h.keeps (fun _ _ e ⟨sound, fit, agree⟩ => ⟨e.sound sound, e.timersFit fit, e.timersAgree sound fit agree⟩) hs

/-- Record `x` of a rail of configuration `c` is one that the part makes (R155, R158), and where `p` holds its width is
within the bound of its kind (R157). -/
structure TimingRecord.Made (p : Prop) (x : TimingRecord) (c : RailConfig) : Prop where
  width : x.width ≤ 65535 ∨ x.width = c.drainTimeout
  continued : x.continued = true → x.kind = .drain ∧ x.width = 65535
  fits : p → x.widthFits c

/-- `t` has the configuration of `s` or none, and its queue is that of `s` with the oldest records taken and records of
the fitted rails of `s` added, their widths within the bounds of R157 where `p` holds: `queueSound` is kept whatever the
timers are (`p` false), the bounds need rails that are `timed`. -/
structure State.Logs (p : Prop) (s t : State) : Prop where
  config : t.startup.config = s.startup.config ∨ t.startup.config = none
  records : ∃ (n : Nat) (l : List TimingRecord), t.records.records = s.records.records.drop n ++ l ∧
    ∀ x ∈ l, ∃ c, s.fittedConfig x.rail = some c ∧ x.Made p c
  length : s.records.records.length ≤ 16 → t.records.records.length ≤ 16
  discarded : s.records.discarded ≤ 255 → t.records.discarded ≤ 255

/-- Widths are held at 65,535 ticks (R157). -/
theorem State.widthSince_le (s : State) (t : Nat) : s.widthSince t ≤ 65535 := Nat.min_le_left _ _

/-- A fitted rail's configuration is its record in the loaded image (R164). -/
theorem State.fittedConfig_some {s : State} {r : RailIx} {c : RailConfig} (h : s.fittedConfig r = some c) :
    ∃ img, s.startup.config = some img ∧ img.rails.get r = c ∧ (img.rails.get r).fitted = true := by
  obtain ⟨img, hi⟩ := State.config_of_fitted h
  rw [State.fittedConfig, hi] at h
  dsimp only at h
  split at h
  · rename_i fitted
    exact ⟨img, hi, Option.some.inj h, fitted⟩
  · cases h

section
variable {p : Prop} {x : TimingRecord} {c : RailConfig}

/-- A DRAIN record, as wide as a record can be (R41, R44). -/
theorem TimingRecord.Made.ofDrain (hk : x.kind = .drain) (hw : x.width ≤ 65535)
    (hc : x.continued = true → x.width = 65535) : x.Made p c := by
  refine ⟨.inl hw, fun h => ⟨hk, hc h⟩, fun _ => ?_⟩
  rw [TimingRecord.widthFits, hk]
  exact hw

/-- A FAULT record, as wide as a record can be (R29). -/
theorem TimingRecord.Made.ofFault (hk : x.kind = .fault) (hw : x.width ≤ 65535) (hc : x.continued = false) :
    x.Made p c := by
  refine ⟨.inl hw, fun h => ?_, fun _ => ?_⟩
  · rw [hc] at h
    cases h
  · rw [TimingRecord.widthFits, hk]
    exact hw

end

namespace State.Logs
variable {p : Prop}

theorem of_eq {s t : State} (hc : t.startup.config = s.startup.config) (hr : t.records = s.records) : s.Logs p t :=
  ⟨.inl hc, ⟨0, [], by rw [hr, List.drop_zero, List.append_nil], fun _ h => absurd h List.not_mem_nil⟩,
    fun h => hr ▸ h, fun h => hr ▸ h⟩

/-- The configuration is given up, the queue kept. -/
theorem unconfigured {s t : State} (hc : t.startup.config = none) (hr : t.records = s.records) : s.Logs p t :=
  { of_eq (p := p) (s := s) (t := { s with records := t.records }) rfl hr with config := .inr hc }

theorem refl (s : State) : s.Logs p s := of_eq rfl rfl

theorem fitted {s t : State} (h : s.Logs p t) {r : RailIx} {c : RailConfig} (hc : t.fittedConfig r = some c) :
    s.fittedConfig r = some c := by
  rcases h.config with e | e
  · rwa [State.fittedConfig, e] at hc
  · rw [State.fittedConfig_none e] at hc
    cases hc

theorem trans {s t u : State} (h : s.Logs p t) (k : t.Logs p u) : s.Logs p u where
  config := by
    rcases k.config with e | e
    · rw [e]
      exact h.config
    · exact .inr e
  records := by
    obtain ⟨n, l, hl, made⟩ := h.records
    obtain ⟨m, l', hl', made'⟩ := k.records
    refine ⟨n + m, l.drop (m - (s.records.records.drop n).length) ++ l', ?_, fun x hx => ?_⟩
    · rw [hl', hl, List.drop_append, List.drop_drop, List.append_assoc]
    · rcases List.mem_append.1 hx with hx | hx
      · exact made x (List.mem_of_mem_drop hx)
      · obtain ⟨c, hc, hm⟩ := made' x hx
        exact ⟨c, h.fitted hc, hm⟩
  length hs := k.length (h.length hs)
  discarded hs := k.discarded (h.discarded hs)

theorem queueRecord {s : State} {x : TimingRecord} {c : RailConfig} (hc : s.fittedConfig x.rail = some c)
    (hx : x.Made p c) : s.Logs p (s.queueRecord x) := by
  have config : (s.queueRecord x).startup.config = s.startup.config := by rw [State.queueRecord_startup]
  rcases Nat.lt_or_ge s.records.records.length 16 with room | full
  · have e := (s.queueRecord_room x room).1
    refine ⟨.inl config, ⟨0, [x], by rw [e, List.drop_zero], fun y hy => ?_⟩, fun _ => ?_, fun h => by rw [e]; exact h⟩
    · rw [List.mem_singleton.1 hy]
      exact ⟨c, hc, hx⟩
    · rw [e, List.length_append]
      exact room
  · have e := (s.queueRecord_full x full).1
    refine ⟨.inl config, ⟨0, [], by rw [e, List.drop_zero, List.append_nil], fun _ h => absurd h List.not_mem_nil⟩,
      fun h => by rw [e]; exact h, fun _ => ?_⟩
    rw [e]
    exact Nat.min_le_left _ _

/-- The bounds of the queue are kept (R159, R160). -/
theorem queueSound {s t : State} (h : s.Logs p t) (hs : s.queueSound) : t.queueSound := by
  obtain ⟨length, discarded, records, drains⟩ := hs
  refine ⟨h.length length, h.discarded discarded, fun x hx => ?_, fun c hc => ?_⟩
  · obtain ⟨n, l, hl, made⟩ := h.records
    rw [hl] at hx
    rcases List.mem_append.1 hx with hx | hx
    · exact records x (List.mem_of_mem_drop hx)
    · obtain ⟨d, hd, hm⟩ := made x hx
      refine ⟨hm.width.elim id fun forced => ?_, hm.continued⟩
      obtain ⟨c, hc, rfl, -⟩ := State.fittedConfig_some hd
      rw [forced]
      exact drains c hc x.rail
  · rcases h.config with e | e
    · exact drains c (e ▸ hc)
    · rw [e] at hc
      cases hc

/-! ### Moves of rails -/

theorem release {s : State} {c : RailConfig} {r : RailIx} (hc : s.fittedConfig r = some c) :
    s.Logs p (s.release c r) :=
  (queueRecord (x := s.makeRecord r .drain .none (s.widthSince (s.rails.get r).drainFrom) false) hc
    (.ofDrain rfl (s.widthSince_le _) (nomatch ·))).trans (of_eq rfl rfl)

theorem enterDraining {s : State} {c : RailConfig} {r : RailIx} (hc : s.fittedConfig r = some c) :
    s.Logs p (s.enterDraining c r) := by
  have drains : s.Logs p (s.draining c r) := of_eq rfl rfl
  rw [State.enterDraining_eq]
  split
  · exact drains
  · exact drains.trans (release hc)

theorem enterSettling (s : State) (c : RailConfig) (r : RailIx) : s.Logs p (s.enterSettling c r) := by
  rw [State.enterSettling_eq]
  split <;> exact of_eq rfl rfl

theorem enterWaiting (s : State) (c : RailConfig) (r : RailIx) : s.Logs p (s.enterWaiting c r) := by
  rw [State.enterWaiting_eq]
  split
  · exact enterSettling s c r
  · exact of_eq rfl rfl

theorem react {o : Occasion} {s u : State} {r : RailIx} (h : s.react o r = some u) : s.Logs p u := by
  obtain ⟨c, hc, row⟩ := State.react_reaction h
  cases row with
  | opens => exact enterWaiting s c r
  | starts => exact enterSettling s c r
  | drains => exact enterDraining hc
  | released => exact release hc
  | shuts | waits | loses | returns => exact of_eq rfl rfl

theorem settle (s : State) (o : Occasion) : s.Logs p (s.settle o) := by
  have moves := s.settle_reaches o
  generalize s.settle o = t at moves
  induction moves with
  | refl => exact refl s
  | tail _ moved ih =>
    obtain ⟨r, hr⟩ := moved
    exact ih.trans (react hr)

/-- A change that is followed by its consequent events. -/
theorem settled {s t : State} (h : s.Logs p t) (o : Occasion) : s.Logs p (t.settle o) := h.trans (settle t o)

theorem judge (s : State) (o : Occasion) (v : View) : s.Logs p (s.judge o v) := by
  have view : s.Logs p (s.takeView v) := by cases v <;> exact of_eq rfl rfl
  exact view.settled o

theorem judgeAll (s : State) (o : Occasion) : s.Logs p (s.judgeAll o) :=
  State.judgeAll_keeps_of (P := s.Logs p) (fun t v h => h.trans (judge t o v)) (refl s)

theorem setFlagIf (s : State) (b : Bool) (f : AlertFlag) : s.Logs p (s.setFlagIf b f) := by
  cases b <;> exact of_eq rfl rfl

theorem takeDownAll (s : State) (k : FallCause) (which : RailConfig → Bool) : s.Logs p (s.takeDownAll k which) := by
  rw [State.takeDownAll_eq]
  exact of_eq rfl rfl

theorem releaseFaults (s : State) (which : ZoneIx → Bool) : s.Logs p (s.releaseFaults which) := by
  rw [State.releaseFaults_eq]
  exact of_eq rfl rfl

theorem faultRail (s : State) (o : Occasion) (r : RailIx) (k : FaultKind) : s.Logs p (s.faultRail o r k) := by
  unfold State.faultRail
  split
  · exact refl s
  · rename_i c hc
    split
    · rw [State.enterFault_entered hc]
      have queued : s.Logs p (s.queueRecord (s.faultRecord r k)) :=
        queueRecord (x := s.faultRecord r k) hc (.ofFault rfl (Nat.min_le_left _ _) rfl)
      have entered : (s.queueRecord (s.faultRecord r k)).Logs p (s.faultEntered c r k) :=
        of_eq (by rw [State.queueRecord_startup]; rfl) rfl
      exact (queued.trans entered).settled o
    · exact refl s

/-! ### Zones, line access and the peer table -/

theorem clear (s : State) (o : Occasion) (z : ZoneIx) : s.Logs p (s.clear o z) := by
  unfold State.clear
  have cleared (e : Zone) : s.Logs p (s.setZone z e) := of_eq rfl rfl
  have flagged (u : State) : u.Logs p (u.setFlag .zoneCleared) := of_eq rfl rfl
  exact (((cleared _).trans (releaseFaults _ _)).trans (flagged _)).settled o

theorem takeZoneBytes (s : State) (o : Occasion) (f : Frame) : s.Logs p (s.takeZoneBytes o f) := by
  unfold State.takeZoneBytes
  refine settled (trans (trans ?_ (releaseFaults _ _)) (takeDownAll _ _ _)) o
  refine trans (trans ?_ (setFlagIf _ _ _)) (setFlagIf _ _ _)
  exact of_eq rfl rfl

theorem enterListen (s : State) : s.Logs p s.enterListen := by
  rw [State.enterListen_eq]
  exact of_eq rfl rfl

theorem enterMuted (s : State) (k : MuteCause) : s.Logs p (s.enterMuted k) := by
  rw [State.enterMuted_eq]
  exact of_eq rfl rfl

theorem takeReport (s : State) (o : Occasion) (f : Frame) : s.Logs p (s.takeReport o f) := by
  refine State.takeReport_keeps_of f fun _ => trans ?_ (judgeAll _ o)
  exact of_eq rfl rfl

theorem takeTiming (s : State) (f : Frame) (t₀ : Nat) : s.Logs p (s.takeTiming f t₀) :=
  State.takeTiming_keeps_of f t₀ (refl s) (fun _ => of_eq rfl rfl) fun _ => of_eq rfl rfl

theorem missCheck (s : State) (o : Occasion) (k : Nat) : s.Logs p (s.missCheck o k) := by
  refine State.missCheck_keeps_of k (refl s) fun _ => trans ?_ (judgeAll _ o)
  exact of_eq rfl rfl

theorem countListen (s : State) (o : Occasion) : s.Logs p (s.countListen o) := by
  refine State.countListen_keeps_of (refl s) (fun _ => of_eq rfl rfl) fun _ _ _ => settled ?_ o
  exact of_eq rfl rfl

theorem slotEnd (s : State) (o : Occasion) (k : Nat) : s.Logs p (s.slotEnd o k) := by
  have check (t : State) (h : s.Logs p t) :
      s.Logs p (if t.line.timingHeld ∧ k ≠ t.own then t.missCheck o k else t) := by
    split
    · exact h.trans (missCheck t o k)
    · exact h
  refine check _ ?_
  split <;> exact of_eq rfl rfl

theorem slotStart (s : State) (o : Occasion) (k t : Nat) : s.Logs p (s.slotStart o k t) := by
  have count (u : State) (h : s.Logs p u) : s.Logs p (if u.line.timingHeld then u.countListen o else u) := by
    split
    · exact h.trans (countListen u o)
    · exact h
  exact count _ (of_eq rfl rfl)

theorem takeFrame (s : State) (o : Occasion) (f : Frame) (t₀ : Nat) : s.Logs p (s.takeFrame o f t₀) := by
  unfold State.takeFrame
  generalize blockOrder o = l
  induction l generalizing s with
  | nil => exact refl s
  | cons b l ih =>
    refine trans ?_ (ih _)
    cases b with
    | lineAccess => exact takeTiming s f t₀
    | peerTable => exact takeReport s o f
    | zoneTable => exact takeZoneBytes s o f

theorem takeDuplicate (s : State) (o : Occasion) : s.Logs p (s.takeDuplicate o) := by
  unfold State.takeDuplicate
  split
  · exact (enterMuted s _).settled o
  · exact (enterMuted s _).settled o
  all_goals exact of_eq rfl rfl

theorem refuseFrame (s : State) (o : Occasion) (e : ErrorKind) : s.Logs p (s.refuseFrame o e) := by
  have counted : s.Logs p { s with receiver := { s.receiver with
      lastError := e, receiveErrors := saturate s.receiver.receiveErrors } } := of_eq rfl rfl
  unfold State.refuseFrame
  dsimp only
  split
  · exact counted.trans (takeDuplicate _ o)
  · exact counted

theorem judgeReceived (s : State) (o : Occasion) (t₀ : Nat) (ended : Option Nat) (rx : List RxByte) :
    s.Logs p (s.judgeReceived o t₀ ended rx) := by
  have waits : s.Logs p { s with receiver := { s.receiver with reception := .waiting ended } } := of_eq rfl rfl
  unfold State.judgeReceived
  dsimp only
  split
  · exact waits
  · split
    · exact waits.trans (refuseFrame _ o _)
    · exact waits.trans (takeFrame _ o _ t₀)

end State.Logs

/-! ### Widths measured at a sample (R13, R20, R61) -/

section
variable {s : State} {r : RailIx} {c : RailConfig}

/-- A width measured by a timer that is not overdue is within the timer's length. -/
theorem State.widthSince_le_length {t : Timer} (h : s.overdue (some t) = false) : s.widthSince t.start ≤ t.length := by
  have due : s.now ≤ t.start + t.length * 1600 := Nat.not_lt.1 (of_decide_eq_false h)
  have width : s.widthSince t.start ≤ (s.now - t.start) / 1600 := Nat.min_le_right _ _
  omega

/-- A rail that qualifies has ramped for no longer than its ramp timeout. -/
theorem State.timed.rampRecord {p : Prop} (timed : p → s.timed) (hc : s.fittedConfig r = some c)
    (hs : (s.rails.get r).state = .ramping) (inTime : s.overdue (s.rails.get r).ramp = false) :
    (s.rampRecord r).Made p c := by
  refine ⟨.inl (s.widthSince_le _), (nomatch ·), fun hp => ?_⟩
  obtain ⟨-, fit, agree⟩ := timed hp
  obtain ⟨-, runs, -⟩ := fit r
  obtain ⟨-, started, -⟩ := agree r c hc
  obtain ⟨t, ht⟩ := Option.isSome_iff_exists.1 (runs.2 hs)
  rw [ht] at inTime
  obtain rfl := started t ht
  exact State.widthSince_le_length inTime

/-- A rail that is below its discharge level has fallen for no longer than its discharge timeout. -/
theorem State.timed.dischargeRecord {p : Prop} (timed : p → s.timed) (hc : s.fittedConfig r = some c)
    (hs : (s.rails.get r).state = .falling) (inTime : s.overdue (s.rails.get r).discharge = false) :
    (s.dischargeRecord r).Made p c := by
  refine ⟨.inl (s.widthSince_le _), (nomatch ·), fun hp => ?_⟩
  obtain ⟨-, fit, agree⟩ := timed hp
  obtain ⟨-, -, -, runs, -⟩ := fit r
  obtain ⟨-, -, -, started, -⟩ := agree r c hc
  obtain ⟨t, ht⟩ := Option.isSome_iff_exists.1 (runs.2 hs)
  rw [ht] at inTime
  obtain rfl := started t ht
  exact State.widthSince_le_length inTime

/-- The PG deglitch of a sound image is a one-byte field (R169). -/
theorem State.pgDeglitch_le (hs : s.sound) (hc : s.fittedConfig r = some c) : c.pgDeglitch ≤ 255 := by
  obtain ⟨img, hi, rfl, fitted⟩ := State.fittedConfig_some hc
  obtain ⟨img', configured⟩ | unconfigured := State.phaseSound_cases hs.1
  · obtain rfl : img = img' := Option.some.inj (hi.symm.trans configured.config)
    obtain ⟨-, -, -, -, -, -, rails⟩ := configured.image
    obtain ⟨-, -, deglitch, -⟩ := rails r fitted
    exact deglitch
  · rw [unconfigured.config] at hi
    cases hi

/-- A dropout that ends at a sample instant began at one, so that its width is even, and it is not longer than the PG
deglitch. -/
theorem State.timed.dropoutRecord {p : Prop} (timed : p → s.timed) (hc : s.fittedConfig r = some c) {d : Timer}
    (hd : (s.monitor.rails.get r).deglitch = some d) (inTime : s.overdue (some d) = false)
    (hn : s.monitor.nextSample = s.now + Config.samplePeriod) : (s.dropoutRecord r d).Made p c := by
  refine ⟨.inl (s.widthSince_le _), (nomatch ·), fun hp => ?_⟩
  obtain ⟨sound, -, agree⟩ := timed hp
  obtain ⟨-, -, -, -, sampled⟩ := agree r c hc
  obtain ⟨length, before, period⟩ := sampled d hd
  have short := State.pgDeglitch_le sound hc
  have bound : s.widthSince d.start ≤ c.pgDeglitch := length ▸ State.widthSince_le_length inTime
  have width : s.widthSince d.start = min 65535 ((s.now - d.start) / 1600) := rfl
  have next : s.monitor.nextSample = s.now + 3200 := hn
  refine ⟨?_, bound⟩
  show s.widthSince d.start % 2 = 0
  omega

end

/-! ### SAMPLE -/

namespace State.Logs
variable {p : Prop} {s : State} {r : RailIx} {c : RailConfig}

theorem qualify (hc : s.fittedConfig r = some c) (made : (s.rampRecord r).Made p c) (o : Occasion) :
    s.Logs p (s.qualify o c r) := by
  have queued : s.Logs p (s.queueRecord (s.rampRecord r)) := queueRecord (x := s.rampRecord r) hc made
  have fitted : (s.queueRecord (s.rampRecord r)).fittedConfig r = some c :=
    (State.fittedConfig_congr (State.queueRecord_startup _ _) r).trans hc
  refine settled (queued.trans ?_) o
  split
  · exact of_eq rfl rfl
  · exact enterDraining fitted

theorem discharged (hc : s.fittedConfig r = some c) (made : (s.dischargeRecord r).Made p c) (o : Occasion) :
    s.Logs p (s.discharged o r) := by
  have queued : s.Logs p (s.queueRecord (s.dischargeRecord r)) := queueRecord (x := s.dischargeRecord r) hc made
  have entered : (s.queueRecord (s.dischargeRecord r)).Logs p (s.fallen r) := of_eq rfl rfl
  rw [State.discharged_eq]
  exact (queued.trans entered).settled o

theorem counted (s : State) (r : RailIx) (n : Nat) : s.Logs p (s.counted r n) := of_eq rfl rfl

theorem watchBackfeed (s : State) (o : Occasion) (c : RailConfig) (r : RailIx) (cls : SampleClass) :
    s.Logs p (s.watchBackfeed o c r cls) := by
  unfold State.watchBackfeed
  dsimp only
  generalize (if cls = .below then 0 else (s.monitor.rails.get r).outside + 1) = n
  split
  · exact (counted s r _).trans (faultRail _ o r .backfeed)
  · exact counted s r _

theorem supervisePg (hc : s.fittedConfig r = some c) (made : c.pgUsed = true →
    ∀ d, (s.monitor.rails.get r).deglitch = some d → (s.dropoutRecord r d).Made p c) :
    s.Logs p (s.supervisePg c r).1 := by
  have quiet (m : Monitor) : s.Logs p (s.setMonitor r m) := of_eq rfl rfl
  by_cases h : (s.monitor.rails.get r).deglitch = none ∨ c.pgUsed = false ∨ (s.monitor.rails.get r).pg = false
  · obtain ⟨m, -, e⟩ := State.supervisePg_monitor h
    rw [e]
    exact quiet m
  · simp only [not_or, Bool.not_eq_false, ← Option.isSome_iff_ne_none, Option.isSome_iff_exists] at h
    obtain ⟨⟨d, hd⟩, used, high⟩ := h
    rw [State.supervisePg_rises used hd high]
    exact (quiet _).trans (queueRecord (x := s.dropoutRecord r d) hc (made used d hd))

theorem supervise (hc : s.fittedConfig r = some c) (made : ∀ d, (s.monitor.rails.get r).deglitch = some d →
    s.overdue (some d) = false → (s.dropoutRecord r d).Made p c) (o : Occasion) (cls : SampleClass) :
    s.Logs p (s.supervise o c r cls) := by
  unfold State.supervise
  dsimp only
  split
  · exact faultRail s o r .pgLost
  rename_i late
  have input (n : Nat) : s.Logs p ((s.counted r n).supervisePg c r).1 := by
    refine (counted s r n).trans (supervisePg hc fun used d hd => ?_)
    rw [State.counted_monitor_get] at hd
    have inTime : s.overdue (s.monitor.rails.get r).deglitch = false := by simpa [used] using late
    rw [hd] at inTime
    exact made d hd inTime
  generalize (if cls = .inWindow then 0 else (s.monitor.rails.get r).outside + 1) = n
  split
  · exact (input _).trans (faultRail _ o r .window)
  split
  · exact (input _).trans (faultRail _ o r .pgLost)
  · exact input _

theorem actOnSample (timed : p → s.timed) (hn : s.monitor.nextSample = s.now + Config.samplePeriod) (o : Occasion)
    (r : RailIx) : s.Logs p (s.actOnSample o r) := by
  cases hc : s.fittedConfig r with
  | none => rw [State.actOnSample_unfitted hc]; exact refl s
  | some c =>
    have up := supervise (p := p) hc (fun d hd inTime => State.timed.dropoutRecord timed hc hd inTime hn) o
    cases hs : (s.rails.get r).state with
    | off => rw [State.actOnSample_resting hc (.inl hs)]; exact watchBackfeed s o c r _
    | waiting => rw [State.actOnSample_resting hc (.inr (.inl hs))]; exact watchBackfeed s o c r _
    | settling => rw [State.actOnSample_resting hc (.inr (.inr hs))]; exact watchBackfeed s o c r _
    | good => rw [State.actOnSample_up hc (.inl hs)]; exact up _
    | draining => rw [State.actOnSample_up hc (.inr hs)]; exact up _
    | fault => rw [State.actOnSample_fault hc hs]; exact refl s
    | ramping =>
      rw [State.actOnSample_ramping hc hs]
      split
      · exact faultRail s o r .rampTimeout
      · rename_i inTime
        split
        · exact qualify hc (State.timed.rampRecord timed hc hs (by simpa using inTime)) o
        · exact refl s
    | falling =>
      rw [State.actOnSample_falling hc hs]
      split
      · exact faultRail s o r .dischargeTimeout
      · rename_i inTime
        split
        · exact discharged hc (State.timed.dischargeRecord timed hc hs (by simpa using inTime)) o
        · exact refl s

theorem actOnSamples (o : Occasion) (l : List RailIx) (s : State) (timed : p → s.timed)
    (hn : s.monitor.nextSample = s.now + Config.samplePeriod) :
    s.Logs p (l.foldl (fun v r => v.actOnSample o r) s) := by
  induction l generalizing s with
  | nil => exact refl s
  | cons r l ih =>
    obtain ⟨leads, clock⟩ := State.actOnSample_leads s o r hn
    exact (actOnSample timed hn o r).trans
      (ih _ (fun h => leads.timed (timed h)) (by rw [clock.nextSample, clock.now, hn]))

end State.Logs

/-- The sample instant `k` comes. -/
theorem State.leads_sampledAt {s : State} {k : Nat} (hk : s.now ≤ s.monitor.nextSample + 3200 * k)
    (counts : Four (BitVec 12)) (pg : Four Bool) : s.Leads (s.sampledAt k counts pg) := by
  have next : s.monitor.nextSample + 3200 * (k + 1) = s.monitor.nextSample + 3200 * k + Config.samplePeriod :=
    (Nat.add_assoc ..).symm
  rw [State.sampledAt, next]
  exact .single (State.Event.sampled s counts pg _ k hk (by rw [Nat.mul_comm]; rfl))

theorem execSample_logs {p : Prop} {o : Occasion} {counts : Four (BitVec 12)} {pg : Four Bool} {s t : State}
    (timed : p → s.timed) (h : execSample o counts pg s = .next t) : s.Logs p t := by
  by_cases running : s.startup.inReset = none
  · rw [execSample_sampledAt running] at h
    cases h
    have instant := (sampleIndex_le_iff s.monitor.nextSample (s.now + o.wait) _).1 le_rfl
    generalize sampleIndex s.monitor.nextSample (s.now + o.wait) = k at instant ⊢
    have comes := State.leads_sampledAt (Nat.le_of_add_right_le instant) counts pg
    have stored : s.Logs p (s.sampledAt k counts pg) := .of_eq rfl rfl
    have grid : (s.sampledAt k counts pg).monitor.nextSample =
        (s.sampledAt k counts pg).now + Config.samplePeriod := (Nat.add_assoc ..).symm
    exact stored.trans (.actOnSamples o _ _ (fun h => comes.timed (timed h)) grid)
  · rw [execSample_inReset running] at h
    cases h
    exact .of_eq rfl rfl

/-! ### The other commands -/

section
variable {p : Prop} {o : Occasion} {s t : State}

theorem State.Logs.after (s : State) (o : Occasion) : s.Logs p (s.after o) := .of_eq rfl rfl

theorem State.Logs.notBefore (s : State) (t : Nat) : s.Logs p (s.notBefore t) := .of_eq rfl rfl

/-- The answer to a port command is no change of the queue. -/
theorem State.Logs.answered (h : s.Logs p t) (r : Result) (payload : List Byte) : s.Logs p (t.answer r payload) :=
  h.trans (.of_eq rfl rfl)

theorem portCommand_logs {changes : Bool} {phases : LinePhase → Bool} {inRange : State → Bool} {act : State → State}
    (h : portCommand o changes phases inRange act s = .next t) (ha : ∀ u : State, u.Logs p (act u)) : s.Logs p t := by
  unfold portCommand at h
  refine (State.Logs.after s o).trans ?_
  dsimp only at h
  split at h
  · split at h <;> cases h
    · exact (State.Logs.refl _).answered _ _
    · exact ha _
  · cases h
    exact .refl _

theorem execReadTrip_logs {z : Byte} (h : execReadTrip o z s = .next t) : s.Logs p t := by
  refine portCommand_logs h fun u => ?_
  split <;> exact (State.Logs.refl u).answered _ _

theorem execTakeRecord_logs (h : execTakeRecord o s = .next t) : s.Logs p t := by
  refine portCommand_logs h fun u => ?_
  split
  · rename_i x rest hr
    have taken : u.Logs p { u with records := { u.records with records := rest } } :=
      ⟨.inl rfl, ⟨1, [], by rw [hr, List.append_nil]; rfl, fun _ h => absurd h List.not_mem_nil⟩,
        fun h => by rw [hr] at h; exact Nat.le_of_succ_le h, fun h => h⟩
    exact taken.answered _ _
  · exact (State.Logs.refl u).answered _ _

theorem execSetDemand_logs {mask : Byte} (h : execSetDemand o mask s = .next t) : s.Logs p t := by
  refine portCommand_logs h fun u => .answered (.trans ?_ (.judge _ o .demand)) _ _
  exact .of_eq rfl rfl

theorem execResumeLine_logs (h : execResumeLine o s = .next t) : s.Logs p t := by
  refine portCommand_logs h fun u => .answered (.settled ?_ o) _ _
  exact (State.Logs.enterListen u).trans (.of_eq rfl rfl)

theorem execRestart_logs (h : execRestart o s = .next t) : s.Logs p t := by
  refine portCommand_logs h fun u => .answered (.settled (.trans ?_ (.takeDownAll _ _ _)) o) _ _
  exact .of_eq rfl rfl

/-- A load that begins gives the configuration up (R166). -/
theorem State.Logs.beginLoad (s : State) (straps : BitVec 5) : s.Logs p (s.beginLoad straps) := .unconfigured rfl rfl

/-- A reset empties the queue (R163). -/
theorem State.Logs.endReset (s : State) (cause : RestartCause) (straps : BitVec 5) :
    s.Logs p (s.endReset cause straps) :=
  ⟨.inr rfl, ⟨s.records.records.length, [], by rw [List.drop_length]; rfl, fun _ h => absurd h List.not_mem_nil⟩,
    fun _ => Nat.zero_le _, fun _ => Nat.zero_le _⟩

theorem execPowerOn_logs {straps : BitVec 5} (h : execPowerOn o straps s = .next t) : s.Logs p t := by
  unfold execPowerOn at h
  dsimp only at h
  split at h <;> cases h
  · exact (State.Logs.after s o).trans (.endReset _ _ _)
  · exact .unconfigured rfl rfl

theorem execResetNLow_logs (h : execResetNLow o s = .next t) : s.Logs p t := by
  unfold execResetNLow at h
  dsimp only at h
  split at h <;> cases h
  · exact .unconfigured rfl rfl
  · exact .after s o

theorem execResetNHigh_logs {straps : BitVec 5} (h : execResetNHigh o straps s = .next t) : s.Logs p t := by
  unfold execResetNHigh at h
  dsimp only at h
  split at h <;> cases h
  · exact .after s o
  · exact (State.Logs.after s o).trans (.endReset _ _ _)

theorem execReinitialisation_logs {straps : BitVec 5} (h : execReinitialisation o straps s = .next t) :
    s.Logs p t := by
  unfold execReinitialisation at h
  dsimp only at h
  split at h <;> cases h
  · have warm : s.Logs p (s.after o).warmValues := .of_eq rfl rfl
    exact (warm.trans (.setFlagIf _ _ _)).trans (.beginLoad _ _)
  · exact .after s o

theorem execTransactionBegin_logs (h : execTransactionBegin o s = .next t) : s.Logs p t := by
  unfold execTransactionBegin at h
  dsimp only at h
  split at h <;> cases h <;> exact .of_eq rfl rfl

theorem execDemandPinTaken_logs {pin : DemPin} (h : execDemandPinTaken o pin s = .next t) : s.Logs p t := by
  unfold execDemandPinTaken at h
  dsimp only at h
  split at h <;> cases h
  · exact .after s o
  · refine .trans ?_ (.judge _ o .demand)
    exact .of_eq rfl rfl

theorem execSettleTimerExpiry_logs {r : RailIx} (h : execSettleTimerExpiry o r s = .next t) : s.Logs p t := by
  unfold execSettleTimerExpiry at h
  dsimp only at h
  split at h
  · split at h <;> cases h
    · refine .settled ?_ o
      exact .of_eq rfl rfl
    · exact .of_eq rfl rfl
  · cases h
    exact .after s o

/-- The expiry of a timer that faults its rail. -/
theorem expiry_logs {r : RailIx} {k : FaultKind} {x : Option Timer}
    (h : (match x with
      | some d => Host.Outcome.next (((s.after o).notBefore d.due).faultRail o r k)
      | none => .next (s.after o) : Host.Outcome State Fault Refusal) = .next t) : s.Logs p t := by
  cases x <;> cases h
  · exact .after s o
  · exact ((State.Logs.after s o).trans (.notBefore _ _)).trans (.faultRail _ o r k)

/-- A drain that is forced has lasted its drain timeout (R42). -/
theorem State.Logs.drainForced {r : RailIx} {c : RailConfig} (hc : s.fittedConfig r = some c) :
    s.Logs p ((s.queueRecord (s.makeRecord r .drainForced .none c.drainTimeout false)).enterFalling c r .demand) :=
  (State.Logs.queueRecord (x := s.makeRecord r .drainForced .none c.drainTimeout false) hc
    ⟨.inr rfl, (nomatch ·), fun _ => rfl⟩).trans (.of_eq rfl rfl)

/-- A drain that is continued has reached the widest width (R44). -/
theorem State.Logs.drainContinued {r : RailIx} {c : RailConfig} (hc : s.fittedConfig r = some c) (x : Rail) :
    s.Logs p ((s.queueRecord (s.makeRecord r .drain .none Config.widthLimit true)).setRail r x) :=
  (State.Logs.queueRecord (x := s.makeRecord r .drain .none Config.widthLimit true) hc
    (.ofDrain rfl le_rfl fun _ => rfl)).trans (.of_eq rfl rfl)

theorem execDrainForced_logs {r : RailIx} (h : execDrainForced o r s = .next t) : s.Logs p t := by
  unfold execDrainForced at h
  dsimp only at h
  split at h
  · rename_i c d hc hd
    have expires : s.Logs p ((s.after o).notBefore d.due) := .of_eq rfl rfl
    split at h <;> cases h
    · exact .settled (expires.trans (.drainForced hc)) o
    · exact expires
  · cases h
    exact .after s o

theorem execDrainContinued_logs {r : RailIx} (h : execDrainContinued o r s = .next t) : s.Logs p t := by
  unfold execDrainContinued at h
  dsimp only at h
  split at h
  · rename_i c hc
    split at h <;> cases h
    · have full (n : Nat) : s.Logs p ((s.after o).notBefore n) := .of_eq rfl rfl
      refine (full _).trans (.drainContinued (c := c) ?_ _)
      exact hc
    · exact .after s o
  · cases h
    exact .after s o

theorem execSlotBoundary_logs (h : execSlotBoundary o s = .next t) : s.Logs p t := by
  unfold execSlotBoundary at h
  dsimp only at h
  split at h
  · cases h
    exact .after s o
  · have ends (n : Nat) : s.Logs p ((s.after o).notBefore n) := .of_eq rfl rfl
    split at h <;> cases h
    · exact ((ends _).trans (.slotStart _ o _ _)).trans (.slotEnd _ o _)
    · exact ((ends _).trans (.slotEnd _ o _)).trans (.slotStart _ o _ _)

theorem execFrameBuild_logs (h : execFrameBuild o s = .next t) : s.Logs p t := by
  unfold execFrameBuild at h
  dsimp only at h
  split at h
  · split at h <;> cases h <;> exact .of_eq rfl rfl
  · cases h
    exact .after s o

theorem execCollision_logs (h : execCollision o s = .next t) : s.Logs p t := by
  unfold execCollision at h
  dsimp only at h
  split at h
  · split at h
    · cases h
      refine .settled (.trans ?_ (.enterListen _)) o
      exact .of_eq rfl rfl
    · split at h <;> cases h
      · refine .settled (.trans ?_ (.enterMuted _ _)) o
        exact .of_eq rfl rfl
      · exact .of_eq rfl rfl
  · cases h
    exact .after s o

theorem execOwnFrameEnd_logs (h : execOwnFrameEnd o s = .next t) : s.Logs p t := by
  unfold execOwnFrameEnd at h
  dsimp only at h
  split at h <;> cases h <;> exact .of_eq rfl rfl

theorem execColdStart_logs (h : execColdStart o s = .next t) : s.Logs p t := by
  unfold execColdStart at h
  dsimp only at h
  split at h
  · cases h
    exact .after s o
  · split at h
    · split at h <;> cases h
      · exact .of_eq rfl rfl
      · refine .settled ?_ o
        exact .of_eq rfl rfl
    · cases h
      exact .after s o

theorem execFrameStart_logs (h : execFrameStart o s = .next t) : s.Logs p t := by
  unfold execFrameStart at h
  dsimp only at h
  split at h <;> cases h <;> exact .of_eq rfl rfl

theorem execFrameReceived_logs {bytes : List RxByte} (h : execFrameReceived o bytes s = .next t) : s.Logs p t := by
  unfold execFrameReceived at h
  dsimp only at h
  have comes (n : Nat) : s.Logs p ((s.after o).notBefore n) := .of_eq rfl rfl
  split at h
  · split at h <;> cases h
    · exact (comes _).trans (.judgeReceived _ o _ _ _)
    · exact .after s o
  · cases h
    exact .after s o

theorem execReceptionGap_logs {bytes : List RxByte} (h : execReceptionGap o bytes s = .next t) : s.Logs p t := by
  unfold execReceptionGap at h
  dsimp only at h
  have comes (n : Nat) : s.Logs p ((s.after o).notBefore n) := .of_eq rfl rfl
  split at h
  · split at h <;> cases h
    · exact .of_eq rfl rfl
    · exact (comes _).trans (.judgeReceived _ o _ _ _)
  · cases h
    exact .after s o

end

/-! ### A load that succeeds (R171) -/

/-- A load of `s` has ended at `u` with its image accepted, and `t` is what it makes of `u`. -/
structure State.Loads (s t : State) : Prop where
  loading : s.startup.load ≠ .idle
  ended : ∃ (u : State) (o : Occasion) (image : List Byte) (img : Image), u.startup = s.startup ∧ u.rails = s.rails ∧
    u.records = s.records ∧ judgeImage u.own image = .accepted img ∧ t = u.loadSucceeds o img

theorem execConfigurationLoadEnd_logs {p : Prop} {o : Occasion} {image : List Byte} {s t : State}
    (h : execConfigurationLoadEnd o image s = .next t) : s.Logs p t ∨ s.Loads t := by
  unfold execConfigurationLoadEnd at h
  dsimp only at h
  split at h
  · cases h
    exact .inl (.after s o)
  · rename_i began loading
    have loading : s.startup.load ≠ .idle := by simp [loading]
    generalize max s.now _ = n at h
    split at h <;> cases h
    · exact .inl (.unconfigured rfl rfl)
    · rename_i img accepted
      exact .inr ⟨loading, { s with now := n }, o, image, img, rfl, rfl, rfl, accepted, rfl⟩

/-- The image in force is the one read. -/
theorem judgeImage_accepted {own : Nat} {image : List Byte} {img : Image} (h : judgeImage own image = .accepted img) :
    img = imageOf image := by
  unfold judgeImage at h
  dsimp only at h
  repeat' split at h
  all_goals cases h
  rfl

/-- The blocks as a load that succeeds leaves them, before the consequent events. -/
def State.listening (s : State) (img : Image) : State := (s.withImage img).enterListen.workOutDemand.rejudge

theorem State.listening_records (s : State) (img : Image) : (s.listening img).records = s.records := by
  rw [State.listening, State.enterListen_eq]
  rfl

/-- The gates of a station in LISTEN are closed, so that rails in OFF stay there. -/
theorem State.listening_atRest {s : State} (img : Image) (off : ∀ r, (s.rails.get r).state = .off) :
    (s.listening img).atRest := by
  intro r c _
  have state : ((s.listening img).rails.get r).state = .off := by
    obtain ⟨_, _, _, _, e⟩ := (s.withImage_sameTimers img).rails r
    rw [State.listening, e]
    simpa [State.withImage] using off r
  rw [state]
  rfl

theorem State.listening_queueSound {s : State} {own : Nat} {image : List Byte} {img : Image} (hs : s.queueSound)
    (h : judgeImage own image = .accepted img) : (s.listening img).queueSound := by
  obtain ⟨length, discarded, records, -⟩ := hs
  unfold State.queueSound
  rw [State.listening_records]
  refine ⟨length, discarded, records, fun c hc r => ?_⟩
  have config : (s.listening img).startup.config = some img := by
    rw [State.listening, State.enterListen_eq]
    rfl
  obtain rfl : img = c := Option.some.inj (config.symm.trans hc)
  rw [judgeImage_accepted h, imageOf, Four.get_of]
  exact Nat.le_of_lt_succ (BitVec.isLt _)

theorem State.Loads.queueSound {s t : State} (h : s.Loads t) (hs : s.queueSound) : t.queueSound := by
  obtain ⟨-, u, o, image, img, startup, -, records, accepted, rfl⟩ := h
  have hu : u.queueSound := by
    unfold State.queueSound
    rw [startup, records]
    exact hs
  exact (State.Logs.settle (p := False) (u.listening img) o).queueSound (State.listening_queueSound hu accepted)

/-- With every rail in OFF the load leaves the queue as it is. -/
theorem State.Loads.records {s t : State} (h : s.Loads t) (hs : s.sound) : t.records = s.records := by
  obtain ⟨loading, u, o, image, img, -, rails, records, -, rfl⟩ := h
  have off := (s.railsDown_iff.1 hs.2).off (hs.1.unconfigured (.inl loading)).config
  have rest := State.listening_atRest (s := u) img (by rw [rails]; exact off)
  have : u.loadSucceeds o img = u.listening img := State.settle_of_atRest rest o
  rw [this, State.listening_records, records]

/-! ### Every step -/

theorem exec_logs {p : Prop} {i : Instr} {s t : State} (timed : p → s.timed) (h : exec i s = .next t) :
    s.Logs p t ∨ s.Loads t := by
  cases i
  case configurationLoadEnd => exact execConfigurationLoadEnd_logs h
  all_goals
    left
    dsimp only [exec] at h
  case powerOn => exact execPowerOn_logs h
  case resetNLow => exact execResetNLow_logs h
  case resetNHigh => exact execResetNHigh_logs h
  case transactionBegin => exact execTransactionBegin_logs h
  case transactionEnd | demandPinChange => cases h; exact .of_eq rfl rfl
  case unknown | readStation | readLine | readPeer | readZones | readRail =>
    exact portCommand_logs h fun u => (State.Logs.refl u).answered _ _
  case ackFlags | setAlertMask => exact portCommand_logs h fun u => .of_eq rfl rfl
  case readTrip => exact execReadTrip_logs h
  case takeRecord => exact execTakeRecord_logs h
  case setDemand => exact execSetDemand_logs h
  case clearZone => exact portCommand_logs h fun u => (State.Logs.clear u _ _).answered _ _
  case resumeLine => exact execResumeLine_logs h
  case restart => exact execRestart_logs h
  case reload => exact portCommand_logs h fun u => (State.Logs.beginLoad u _).answered _ _
  case reinitialisation => exact execReinitialisation_logs h
  case demandPinTaken => exact execDemandPinTaken_logs h
  case sample => exact execSample_logs timed h
  case settleTimerExpiry => exact execSettleTimerExpiry_logs h
  case rampTimeout | dischargeTimeout | pgLost => exact expiry_logs h
  case drainForced => exact execDrainForced_logs h
  case drainContinued => exact execDrainContinued_logs h
  case slotBoundary => exact execSlotBoundary_logs h
  case frameBuild => exact execFrameBuild_logs h
  case collision => exact execCollision_logs h
  case ownFrameEnd => exact execOwnFrameEnd_logs h
  case coldStart => exact execColdStart_logs h
  case frameStart => exact execFrameStart_logs h
  case frameReceived => exact execFrameReceived_logs h
  case receptionGap => exact execReceptionGap_logs h

/-- The command at the front of the queue of commands is taken before it is run. -/
theorem step_logs {p : Prop} {s t : State} (timed : p → s.timed) (h : step s = .next t) :
    s.Logs p t ∨ s.Loads t := by
  unfold step at h
  split at h
  · cases h
    exact .inl (.refl s)
  · rename_i i rest _
    have taken : s.Logs p { s with pending := rest } := .of_eq rfl rfl
    have leads : s.Leads { s with pending := rest } := .single (.dequeued s rest)
    rcases exec_logs (fun hp => leads.timed (timed hp)) h with logs | loads
    · exact .inl (taken.trans logs)
    · exact .inr ⟨loads.loading, loads.ended⟩

/-- Settles O56: a step logs records of the bounds of R157, or ends a load, which finds every rail in OFF. -/
theorem stepKeepsQueueSound : Obligations.StepKeepsQueueSound := by
  refine ⟨fun s t hs h => ?_, fun s t timed h => ?_⟩
  · rcases step_logs (p := False) False.elim h with logs | loads
    · exact logs.queueSound hs
    · exact loads.queueSound hs
  · rcases step_logs (p := True) (fun _ => timed) h with logs | loads
    · obtain ⟨n, l, added, made⟩ := logs.records
      refine ⟨n, l, added, fun x hx => ?_⟩
      obtain ⟨c, hc, hm⟩ := made x hx
      exact ⟨c, hc, hm.fits trivial⟩
    · refine ⟨0, [], ?_, fun _ hx => absurd hx List.not_mem_nil⟩
      rw [loads.records timed.1, List.drop_zero, List.append_nil]

end Sys2Proof.Machine

/-! Proofs about the configuration image: what its bytes give, the seven checks in their order, and what an accepted
image has. -/

namespace Sys2Proof.Machine
open Sys2Proof

/-! ### The bytes of an image (Tables 63 and 64) -/

/-- Within the image no byte is taken from the pull-up of CM_MISO (R167). -/
theorem imageByte_of_lt {b : List Byte} {i : Nat} (h : i < b.length) : imageByte b i = b.getD i 0 := by
  rw [imageByte, List.getD_eq_getElem _ _ h, List.getD_eq_getElem _ _ h]

theorem imageByte_range {b : List Byte} {n : Nat} (h : n ≤ b.length) :
    (List.range n).map (imageByte b) = b.take n := by
  refine List.ext_getElem (by simpa using h) fun i hi _ => ?_
  have hn : i < n := by simpa using hi
  rw [List.getElem_map, List.getElem_range, imageByte_of_lt (by omega), List.getElem_take,
    List.getD_eq_getElem _ _ (by omega)]

theorem imageHalf_toNat (b : List Byte) (i : Nat) :
    (imageHalf b i).toNat = 256 * (imageByte b i).toNat + (imageByte b (i + 1)).toNat := by
  have low := (imageByte b (i + 1)).isLt
  rw [imageHalf, BitVec.toNat_append, ← Nat.shiftLeft_add_eq_or_of_lt low, Nat.shiftLeft_eq]
  omega

theorem recordBase_lt (r : RailIx) {i : Nat} (h : i < 25) : recordBase r + i < 108 := by
  have := RailIx.toNat_lt r
  unfold recordBase
  omega

theorem Ref.ofByte_station (b : Byte) : (Ref.ofByte b).station = b.toNat / 4 % 32 :=
  ((Ref.ofByte_eq_iff b _ _).1 rfl).1.symm

theorem Ref.ofByte_rail (b : Byte) : (Ref.ofByte b).rail.toNat = b.toNat % 4 :=
  ((Ref.ofByte_eq_iff b _ _).1 rfl).2.symm

theorem Ref.ofByte_eq (b : Byte) : Ref.ofByte b = ⟨b.toNat / 4 % 32, RailIx.ofIndex b.toNat⟩ :=
  (Ref.ofByte_eq_iff b _ _).2 ⟨rfl, (RailIx.ofIndex_eq_iff _ _).1 rfl⟩

/-- A prerequisite names a station a byte has room for. -/
theorem prerequisite_station_lt {image : List Byte} {r : RailIx} {p : Ref} (h : p ∈ prerequisitesOf image r) :
    p.station < 32 := by
  obtain ⟨i, -, rfl⟩ := List.mem_map.1 h
  rw [Ref.ofByte_station]
  exact Nat.mod_lt _ (by decide)

theorem prerequisitesOf_getElem? {image : List Byte} {r : RailIx} {i : Nat} {p : Ref}
    (h : (prerequisitesOf image r)[i]? = some p) : p = Ref.ofByte (imageByte image (recordBase r + (19 + i))) := by
  rw [prerequisitesOf, List.getElem?_map] at h
  obtain ⟨j, hj, rfl⟩ := Option.map_eq_some_iff.1 h
  obtain ⟨hi, e⟩ := List.getElem?_eq_some_iff.1 hj
  rw [← e, List.getElem_range, Nat.add_assoc]

theorem imageOf_rails (image : List Byte) (r : RailIx) : (imageOf image).rails.get r = railConfigOf image r :=
  Four.get_of _ r

/-! ### Check 5: a rail's record (R169) -/

/-- The faults of a fitted rail's record, as check 5 looks for them. -/
theorem railRefused_iff (image : List Byte) (own : Nat) (r : RailIx) : railRefused image own r = true ↔
    (railConfigOf image r).fitted = true ∧
      (7 < (imageByte image (recordBase r + 1)).toNat ∨ (railConfigOf image r).persistence = 0 ∨
        (railConfigOf image r).magnitude = 0 ∨ (railConfigOf image r).nominal < (railConfigOf image r).magnitude ∨
        4095 < (railConfigOf image r).nominal + (railConfigOf image r).magnitude ∨
        (railConfigOf image r).nominal - (railConfigOf image r).magnitude ≤ (railConfigOf image r).dischargeLevel ∨
        6 < (imageByte image (recordBase r + 18)).toNat ∨
        (∃ p ∈ (railConfigOf image r).prerequisites, (imageByte image 3).toNat ≤ p.station ∨ p = ⟨own, r⟩ ∨
          (p.station = own ∧ ¬ (railConfigOf image p.rail).fitted = true)) ∨
        (railConfigOf image r).rampTimeout = 0 ∨ (railConfigOf image r).dischargeTimeout = 0) := by
  have own_eq (p : Ref) : p = ⟨own, r⟩ ↔ p.station = own ∧ p.rail = r := Ref.mk.injEq .. ▸ Iff.rfl
  simp only [railRefused, Bool.and_eq_true, Bool.or_eq_true, decide_eq_true_eq, beq_iff_eq, List.any_eq_true, own_eq,
    Bool.not_eq_eq_eq_not, Bool.not_true, Bool.not_eq_true, or_assoc]

/-- What check 5 has let pass of the two fields read as whole bytes. -/
theorem bytes_of_not_railRefused {image : List Byte} {own : Nat} {r : RailIx} (h : ¬ railRefused image own r = true)
    (hf : (railConfigOf image r).fitted = true) : (imageByte image (recordBase r + 1)).toNat ≤ 7 ∧
      (imageByte image (recordBase r + 18)).toNat ≤ 6 := by
  refine ⟨Nat.le_of_not_lt fun zone => h ?_, Nat.le_of_not_lt fun count => h ?_⟩
  · exact (railRefused_iff image own r).2 ⟨hf, .inl zone⟩
  · exact (railRefused_iff image own r).2 ⟨hf, .inr <| .inr <| .inr <| .inr <| .inr <| .inr <| .inl count⟩

/-! ### Check 6: rings of local prerequisites (R170) -/

theorem localLink_iff (image : List Byte) (own : Nat) (a b : RailIx) : localLink image own a b = true ↔
    (railConfigOf image a).fitted = true ∧ (⟨own, b⟩ : Ref) ∈ (railConfigOf image a).prerequisites := by
  rw [localLink, Bool.and_eq_true, List.any_eq_true]
  refine and_congr Iff.rfl ⟨?_, fun hp => ⟨_, hp, by simp⟩⟩
  rintro ⟨⟨station, rail⟩, hp, e⟩
  obtain ⟨rfl, rfl⟩ := (Bool.and_eq_true_iff.1 e).imp eq_of_beq eq_of_beq
  exact hp

section Reached
variable {link : RailIx → RailIx → Bool} {a : RailIx}

theorem mem_reached_zero {q : RailIx} : q ∈ reached link a 0 ↔ link a q = true := by
  simp [reached, RailIx.mem_all]

theorem mem_reached_succ {n : Nat} {q : RailIx} :
    q ∈ reached link a (n + 1) ↔ link a q = true ∨ ∃ p ∈ reached link a n, link p q = true := by
  simp [reached, RailIx.mem_all]

theorem reached_sublist_all (n : Nat) : (reached link a n).Sublist RailIx.all := by
  cases n <;> exact List.filter_sublist

theorem reached_subset_succ (n : Nat) {q : RailIx} (h : q ∈ reached link a n) : q ∈ reached link a (n + 1) := by
  induction n generalizing q with
  | zero => exact mem_reached_succ.2 (.inl (mem_reached_zero.1 h))
  | succ n ih =>
    rcases mem_reached_succ.1 h with one | ⟨p, hp, last⟩
    · exact mem_reached_succ.2 (.inl one)
    · exact mem_reached_succ.2 (.inr ⟨p, ih hp, last⟩)

theorem reached_sublist_succ (n : Nat) : (reached link a n).Sublist (reached link a (n + 1)) := by
  cases n with
  | zero => exact List.monotone_filter_right _ fun q h => by simp [h]
  | succ n =>
    refine List.monotone_filter_right _ fun q h => ?_
    simp only [Bool.or_eq_true, List.any_eq_true] at h ⊢
    exact h.imp_right fun ⟨p, hp, hq⟩ => ⟨p, reached_subset_succ n hp, hq⟩

/-- Each further link reaches a further rail until no link does. -/
theorem reached_closes (n : Nat) : reached link a (n + 1) = reached link a n ∨ n < (reached link a n).length := by
  induction n with
  | zero =>
    rcases h : reached link a 0 with _ | ⟨q, l⟩
    · left
      refine List.eq_nil_iff_forall_not_mem.2 fun q hq => ?_
      rcases mem_reached_succ.1 hq with one | ⟨p, hp, -⟩
      · exact absurd (mem_reached_zero.2 one) (by simp [h])
      · exact absurd hp (by simp [h])
    · right
      simp
  | succ n ih =>
    by_cases closed : reached link a (n + 1) = reached link a n
    · left
      conv_lhs => rw [reached, closed]
      rfl
    · right
      have longer := (reached_sublist_succ n).length_le.lt_of_ne
        fun e => closed ((reached_sublist_succ n).eq_of_length e).symm
      have := ih.resolve_left closed
      omega

/-- Four links reach every rail that any number of links reaches. -/
theorem reached_three_closed {p q : RailIx} (h : p ∈ reached link a 3) (hl : link p q = true) :
    q ∈ reached link a 3 := by
  rcases reached_closes (link := link) (a := a) 3 with closed | full
  · exact closed ▸ mem_reached_succ.2 (.inr ⟨p, h, hl⟩)
  · have all : reached link a 3 = RailIx.all :=
      (reached_sublist_all 3).eq_of_length (Nat.le_antisymm (reached_sublist_all 3).length_le full)
    exact all ▸ RailIx.mem_all q

theorem mem_reached_three_iff {q : RailIx} :
    q ∈ reached link a 3 ↔ Relation.TransGen (fun p q => link p q = true) a q := by
  constructor
  · have chain (n : Nat) : ∀ q, q ∈ reached link a n → Relation.TransGen (fun p q => link p q = true) a q := by
      induction n with
      | zero => exact fun q h => .single (mem_reached_zero.1 h)
      | succ n ih =>
        intro q h
        rcases mem_reached_succ.1 h with one | ⟨p, hp, last⟩
        · exact .single one
        · exact (ih p hp).tail last
    exact chain 3 q
  · intro h
    induction h with
    | single one =>
      exact reached_subset_succ 2 (reached_subset_succ 1 (reached_subset_succ 0 (mem_reached_zero.2 one)))
    | tail _ last ih => exact reached_three_closed ih last

end Reached

theorem localCycle_iff (image : List Byte) (own : Nat) : localCycle image own = true ↔
    ∃ r, Relation.TransGen (fun a q => (railConfigOf image a).fitted = true ∧
      (⟨own, q⟩ : Ref) ∈ (railConfigOf image a).prerequisites) r r := by
  simp only [localCycle, List.any_eq_true, List.contains_iff_mem, mem_reached_three_iff, localLink_iff, RailIx.mem_all,
    true_and]

/-! ### Check 7: the remote prerequisites (R170) -/

/-- Every byte the hold list can hold is the byte of the reference it spells. -/
theorem Ref.toByte_ofByte {b : Byte} (h : b.toNat < 128) : (Ref.ofByte b).toByte = b := by
  apply BitVec.eq_of_toNat_eq
  rw [Ref.toByte_toNat (by rw [Ref.ofByte_station]; omega), Ref.ofByte_station, Ref.ofByte_rail]
  omega

theorem Ref.toByte_inj {p q : Ref} (hp : p.station < 32) (hq : q.station < 32) (h : p.toByte = q.toByte) : p = q :=
  Ref.number_inj (by rw [← Ref.toByte_toNat hp, ← Ref.toByte_toNat hq, h])

/-- The bytes of the remote prerequisites are as many as these references, each counted once. -/
theorem remoteBytes_length {rails : Four RailConfig} {own : Nat} {l : List Ref} (nodup : l.Nodup)
    (station : ∀ p ∈ l, p.station < 32) (remote : ∀ p, p ∈ l ↔ p.station ≠ own ∧
      ∃ r, (rails.get r).fitted = true ∧ p ∈ (rails.get r).prerequisites) :
    (remoteBytes rails own (fun _ => true)).length = l.length := by
  have spelled (p : Ref) (hp : p.station < 32) : p.toByte ∈ remoteBytes rails own (fun _ => true) ↔ p ∈ l := by
    simp [toByte_mem_remoteBytes_iff hp, remote p]
  have nodup_bytes : (remoteBytes rails own (fun _ => true)).Nodup :=
    List.Nodup.of_map BitVec.toNat ((remoteBytes_ascending _ _ _).imp fun h => Nat.ne_of_lt h)
  have nodup_spelled : (l.map Ref.toByte).Nodup :=
    nodup.map_on fun p hp q hq e => Ref.toByte_inj (station p hp) (station q hq) e
  have same : (remoteBytes rails own (fun _ => true)).Perm (l.map Ref.toByte) := by
    refine (List.perm_ext_iff_of_nodup nodup_bytes nodup_spelled).2 fun b => ⟨fun hb => ?_, fun hb => ?_⟩
    · have small : b.toNat < 128 := by
        have : b.toNat ∈ (remoteBytes rails own (fun _ => true)).map BitVec.toNat := List.mem_map_of_mem hb
        rw [remoteBytes_toNat, List.mem_filter, List.mem_range] at this
        exact this.1
      refine List.mem_map.2 ⟨Ref.ofByte b, (spelled _ ?_).1 ?_, Ref.toByte_ofByte small⟩
      · rw [Ref.ofByte_station]
        exact Nat.mod_lt _ (by decide)
      · rwa [Ref.toByte_ofByte small]
    · obtain ⟨p, hp, rfl⟩ := List.mem_map.1 hb
      exact (spelled p (station p hp)).2 hp
  rw [same.length_eq, List.length_map]

/-! ### The checks in their order (R168, Table 46) -/

/-- Checks 1 to 4 let the image pass: format tag, CRC, shelf size and signature, own number. -/
structure HeaderPasses (own : Nat) (image : List Byte) : Prop where
  tag : imageByte image 0 = Config.formatTag
  check : crc ((List.range 106).map (imageByte image)) = imageHalf image 106
  shelf : ¬ ((imageByte image 3).toNat < 2 ∨ 32 < (imageByte image 3).toNat ∨ imageHalf image 1 = 0x0000 ∨
    imageHalf image 1 = 0xFFFF)
  station : own < (imageByte image 3).toNat

/-- All seven checks let the image pass. -/
structure ImagePasses (own : Nat) (image : List Byte) : Prop extends HeaderPasses own image where
  rails : ∀ r, ¬ railRefused image own r = true
  order : ¬ localCycle image own = true
  holds : (remoteBytes (imageOf image).rails own (fun _ => true)).length ≤ 8

section Judged
variable {own : Nat} {image : List Byte}

theorem judgeImage_badTag (h : imageByte image 0 ≠ Config.formatTag) : judgeImage own image = .refused .badTag .r0 :=
  if_pos h

theorem judgeImage_badCheck (tag : imageByte image 0 = Config.formatTag)
    (h : crc ((List.range 106).map (imageByte image)) ≠ imageHalf image 106) :
    judgeImage own image = .refused .badCheck .r0 := by
  rw [judgeImage, if_neg (not_not_intro tag), if_pos h]

theorem judgeImage_badShelf (tag : imageByte image 0 = Config.formatTag)
    (check : crc ((List.range 106).map (imageByte image)) = imageHalf image 106)
    (h : (imageByte image 3).toNat < 2 ∨ 32 < (imageByte image 3).toNat ∨ imageHalf image 1 = 0x0000 ∨
      imageHalf image 1 = 0xFFFF) : judgeImage own image = .refused .badShelf .r0 := by
  rw [judgeImage, if_neg (not_not_intro tag), if_neg (not_not_intro check), if_pos h]

theorem judgeImage_badStation (tag : imageByte image 0 = Config.formatTag)
    (check : crc ((List.range 106).map (imageByte image)) = imageHalf image 106)
    (shelf : ¬ ((imageByte image 3).toNat < 2 ∨ 32 < (imageByte image 3).toNat ∨ imageHalf image 1 = 0x0000 ∨
      imageHalf image 1 = 0xFFFF)) (h : (imageByte image 3).toNat ≤ own) :
    judgeImage own image = .refused .badStation .r0 := by
  rw [judgeImage, if_neg (not_not_intro tag), if_neg (not_not_intro check), if_neg shelf, if_pos h]

namespace HeaderPasses

theorem badRail (h : HeaderPasses own image) {r : RailIx} (hr : RailIx.all.find? (railRefused image own) = some r) :
    judgeImage own image = .refused .badRail r := by
  rw [judgeImage, if_neg (not_not_intro h.tag), if_neg (not_not_intro h.check), if_neg h.shelf,
    if_neg (Nat.not_le_of_lt h.station), hr]

variable (h : HeaderPasses own image) (rails : ∀ r, ¬ railRefused image own r = true)
include h rails

/-- With every rail's record acceptable the last two checks decide. -/
theorem judged : judgeImage own image =
    if localCycle image own then .refused .badOrder .r0
    else if 8 < (remoteBytes (imageOf image).rails own (fun _ => true)).length then .refused .holdLimit .r0
    else .accepted (imageOf image) := by
  rw [judgeImage, if_neg (not_not_intro h.tag), if_neg (not_not_intro h.check), if_neg h.shelf,
    if_neg (Nat.not_le_of_lt h.station), List.find?_eq_none.2 fun r _ => rails r]
  rfl

theorem badOrder (ring : localCycle image own = true) : judgeImage own image = .refused .badOrder .r0 := by
  rw [h.judged rails, if_pos ring]

variable (ring : ¬ localCycle image own = true)
include ring

theorem holdLimit (many : 8 < (remoteBytes (imageOf image).rails own (fun _ => true)).length) :
    judgeImage own image = .refused .holdLimit .r0 := by
  rw [h.judged rails, if_neg ring, if_pos many]

theorem accepted (few : (remoteBytes (imageOf image).rails own (fun _ => true)).length ≤ 8) :
    judgeImage own image = .accepted (imageOf image) := by
  rw [h.judged rails, if_neg ring, if_neg (Nat.not_lt_of_le few)]

end HeaderPasses

/-- An accepted image has passed all seven checks, since a check it fails would have refused it. -/
theorem imagePasses_of_accepted {img : Image} (h : judgeImage own image = .accepted img) : ImagePasses own image := by
  have not_refused {e : ConfigErrorKind} {r : RailIx} : judgeImage own image ≠ .refused e r := by simp [h]
  have tag := by_contra fun k => not_refused (judgeImage_badTag k)
  have check := by_contra fun k => not_refused (judgeImage_badCheck tag k)
  have shelf := fun k => not_refused (judgeImage_badShelf tag check k)
  have header : HeaderPasses own image :=
    ⟨tag, check, shelf, Nat.lt_of_not_le fun k => not_refused (judgeImage_badStation tag check shelf k)⟩
  have rails (r : RailIx) : ¬ railRefused image own r = true := by
    cases found : RailIx.all.find? (railRefused image own) with
    | none => exact List.find?_eq_none.1 found r r.mem_all
    | some q => exact absurd (header.badRail found) not_refused
  have order := fun k => not_refused (header.badOrder rails k)
  exact ⟨header, rails, order, Nat.le_of_not_lt fun k => not_refused (header.holdLimit rails order k)⟩

end Judged

/-- Settles O9: what the checks have let pass (`judgeImage_sound`, `imagePasses_of_accepted`); the fields are the bytes
as `railConfigOf` reads them. -/
theorem acceptedImageIsSound : Obligations.AcceptedImageIsSound := by
  intro own b img h
  have sound := judgeImage_sound h
  have passed := imagePasses_of_accepted h
  obtain rfl := judgeImage_accepted h
  refine ⟨sound, fun r ring => passed.order ((localCycle_iff b own).2 ⟨r, ?_⟩), rfl, rfl, rfl, rfl, fun r => ?_⟩
  · simpa only [imageOf_rails] using ring
  rw [imageOf_rails]
  have bytes := bytes_of_not_railRefused (passed.rails r)
  refine ⟨rfl, rfl, ?_, rfl, fun fitted => ?_, imageHalf_toNat b _, imageHalf_toNat b _, imageHalf_toNat b _, rfl, rfl,
    imageHalf_toNat b _, imageHalf_toNat b _, imageHalf_toNat b _, imageHalf_toNat b _, fun fitted => ?_,
    fun i p hp => ?_⟩
  · rw [show (railConfigOf b r).policy = if (imageByte b (recordBase r)).getLsbD 2 then .latch else .follow from rfl]
    split <;> simp_all [imageByte, recordBase]
  · exact (ZoneIx.ofIndex_toNat _).trans (Nat.mod_eq_of_lt (Nat.lt_succ_of_le (bytes fitted).1))
  · simp only [railConfigOf, prerequisitesOf, List.length_map, List.length_range]
    exact Nat.min_eq_right (bytes fitted).2
  · rw [prerequisitesOf_getElem? hp]
    exact ⟨Ref.ofByte_station _, Ref.ofByte_rail _⟩

/-! ### The image's bytes as the checks name them -/

section Whole
variable {b : List Byte} (len : b.length = 108)
include len

theorem imageByte_whole {i : Nat} (h : i < 108) : b.getD i 0 = imageByte b i :=
  (imageByte_of_lt (len ▸ h)).symm

theorem recordByte_whole (r : RailIx) {i : Nat} (h : i < 25) :
    b.getD (6 + 25 * r.toNat + i) 0 = imageByte b (recordBase r + i) :=
  imageByte_whole len (recordBase_lt r h)

theorem recordHalf_whole (r : RailIx) {i : Nat} (h : i + 1 < 25) :
    256 * (b.getD (6 + 25 * r.toNat + i) 0).toNat + (b.getD (6 + 25 * r.toNat + (i + 1)) 0).toNat =
      (imageHalf b (recordBase r + i)).toNat := by
  rw [recordByte_whole len r (by omega), recordByte_whole len r h, imageHalf_toNat]
  rfl

theorem fitted_whole (r : RailIx) :
    (b.getD (6 + 25 * r.toNat + 0) 0).toNat % 2 = 1 ↔ (railConfigOf b r).fitted = true := by
  rw [recordByte_whole len r (by decide)]
  show _ ↔ (imageByte b (recordBase r + 0)).getLsbD 0 = true
  simp [BitVec.getLsbD, Nat.testBit_zero]

theorem prerequisites_whole (r : RailIx) :
    (List.range (min 6 (b.getD (6 + 25 * r.toNat + 18) 0).toNat)).map (fun i =>
      ({ station := (b.getD (6 + 25 * r.toNat + (19 + i)) 0).toNat / 4 % 32
         rail := RailIx.ofIndex (b.getD (6 + 25 * r.toNat + (19 + i)) 0).toNat } : Ref)) =
      (railConfigOf b r).prerequisites := by
  rw [recordByte_whole len r (by decide)]
  refine List.map_congr_left fun i hi => ?_
  have : i < 6 := Nat.lt_of_lt_of_le (List.mem_range.1 hi) (Nat.min_le_left _ _)
  rw [recordByte_whole len r (by omega), ← Ref.ofByte_eq, ← Nat.add_assoc]

theorem check_whole : crc (b.take 106) = b.getD 106 0 ++ b.getD 107 0 ↔
    crc ((List.range 106).map (imageByte b)) = imageHalf b 106 := by
  rw [imageByte_range (by omega), imageByte_whole len (by decide), imageByte_whole len (by decide)]
  rfl

theorem signature_whole : b.getD 1 0 ++ b.getD 2 0 = imageHalf b 1 := by
  rw [imageByte_whole len (by decide), imageByte_whole len (by decide)]
  rfl

end Whole

theorem lawful_iff (n : Nat) (x : Half) :
    (2 ≤ n ∧ n ≤ 32 ∧ x ≠ 0 ∧ x ≠ 0xFFFF) ↔ ¬ (n < 2 ∨ 32 < n ∨ x = 0x0000 ∨ x = 0xFFFF) := by
  simp only [not_or, not_lt, ne_eq]

/-- A remote prerequisite of some fitted rail. -/
theorem mem_distinctRemote {fitted : RailIx → Prop} {_ : ∀ r, Decidable (fitted r)} {named : RailIx → List Ref}
    {own : Nat} {p : Ref} :
    p ∈ (RailIx.all.flatMap fun r => if fitted r then (named r).filter (fun p => p.station ≠ own) else []).dedup ↔
      p.station ≠ own ∧ ∃ r, fitted r ∧ p ∈ named r := by
  simp only [List.mem_dedup, List.mem_flatMap, RailIx.mem_all, true_and]
  constructor
  · rintro ⟨r, hp⟩
    split at hp
    · rename_i hf
      obtain ⟨hp, far⟩ := List.mem_filter.1 hp
      exact ⟨of_decide_eq_true far, r, hf, hp⟩
    · cases hp
  · rintro ⟨far, r, hf, hp⟩
    exact ⟨r, (if_pos hf).symm ▸ List.mem_filter.2 ⟨hp, decide_eq_true far⟩⟩

/-- Settles O8: each refusal by the lemma of its check, with the checks read byte by byte (`railRefused_iff`,
`localCycle_iff`, `remoteBytes_length`). -/
theorem imageChecksInOrder : Obligations.ImageChecksInOrder := by
  constructor
  · intro own b len n sig sound lawful
    have n_eq : n = (imageByte b 3).toNat := by rw [← imageByte_whole len (by decide)]
    have lawful_eq : lawful ↔ _ := (lawful_iff n sig).trans (by rw [n_eq, show sig = _ from signature_whole len])
    have sound_eq : sound ↔ _ := check_whole len
    rw [imageByte_whole len (by decide), sound_eq, lawful_eq, n_eq, show sig = _ from signature_whole len]
    refine ⟨judgeImage_badTag, judgeImage_badCheck,
      fun tag check shelf => judgeImage_badShelf tag check (not_not.1 shelf), judgeImage_badStation,
      fun img accepted => ?_⟩
    have passed := imagePasses_of_accepted accepted
    obtain rfl := judgeImage_accepted accepted
    exact ⟨passed.tag, passed.check, passed.shelf, passed.station, rfl, rfl⟩
  · intro own b len n sig byte half fitted named bad ring remote tag check low high zero ones station
    have n_eq : n = (imageByte b 3).toNat := by rw [← imageByte_whole len (by decide)]
    have header : HeaderPasses own b := by
      refine ⟨(imageByte_whole len (by decide)).symm.trans tag, (check_whole len).1 check, ?_, n_eq ▸ station⟩
      rw [← n_eq, ← signature_whole len]
      exact (lawful_iff n sig).1 ⟨low, high, zero, ones⟩
    have fitted_iff (r : RailIx) : fitted r ↔ (railConfigOf b r).fitted = true := fitted_whole len r
    have named_eq (r : RailIx) : named r = (railConfigOf b r).prerequisites := prerequisites_whole len r
    have byte_eq (r : RailIx) (i : Nat) (h : i < 25) : byte r i = (imageByte b (recordBase r + i)).toNat :=
      congrArg BitVec.toNat (recordByte_whole len r h)
    have half_eq (r : RailIx) (i : Nat) (h : i + 1 < 25) : half r i = (imageHalf b (recordBase r + i)).toNat :=
      recordHalf_whole len r h
    have bad_iff (r : RailIx) : bad r ↔ railRefused b own r = true := by
      rw [railRefused_iff, ← n_eq]
      simp only [bad, fitted_iff, named_eq]
      rw [byte_eq r 1 (by decide), byte_eq r 8 (by decide), byte_eq r 18 (by decide), half_eq r 2 (by decide),
        half_eq r 4 (by decide), half_eq r 6 (by decide), half_eq r 12 (by decide), half_eq r 16 (by decide)]
      rfl
    have ring_iff : ring ↔ localCycle b own = true := by
      rw [localCycle_iff]
      simp only [ring, fitted_iff, named_eq]
    have remote_length : (remoteBytes (imageOf b).rails own (fun _ => true)).length = remote.length := by
      have mem (p : Ref) : p ∈ remote ↔ p.station ≠ own ∧
          ∃ r, ((imageOf b).rails.get r).fitted = true ∧ p ∈ ((imageOf b).rails.get r).prerequisites :=
        (mem_distinctRemote (fitted := fitted) (named := named)).trans
          (by simp only [fitted_iff, named_eq, imageOf_rails])
      refine remoteBytes_length (List.nodup_dedup _) (fun p hp => ?_) mem
      obtain ⟨-, r, -, hp⟩ := (mem p).1 hp
      exact prerequisite_station_lt (imageOf_rails b r ▸ hp)
    simp only [bad_iff, ring_iff, ← remote_length]
    refine ⟨fun r hr least => header.badRail ?_, header.badOrder, header.holdLimit,
      fun rails ring few => ⟨_, header.accepted rails ring few⟩⟩
    refine (find?_eq_some_iff_least (f := RailIx.toNat) (by decide) r).2 ⟨r.mem_all, hr, fun q _ hq => ?_⟩
    exact Nat.le_of_not_lt fun lt => least q lt hq

end Sys2Proof.Machine

/-! Proofs about start-up: resets, the beginning and the two ends of a configuration load, and the warm restart. -/

namespace Sys2Proof.Machine
open Sys2Proof

/-! ### The view of a station with no peers in force (R37, R76) -/

/-- Own demand is all the shelf demand there is while no peer is PRESENT (R76). -/
theorem State.shelfDemand_alone {s : State} (h : ∀ p ∈ s.peers, p.presence ≠ .present) (z : ZoneIx) :
    s.shelfDemand z = s.zones.ownDemand.getLsbD z.toNat := by
  rw [Bool.eq_iff_iff, State.shelfDemand_iff]
  refine or_iff_left ?_
  rintro ⟨n, p, hp, -, present, -⟩
  exact h p (List.mem_of_getElem? hp) present

theorem State.peersHold_alone {s : State} (h : ∀ p ∈ s.peers, p.presence ≠ .present) (r : RailIx) :
    s.peersHold r = false := by
  rw [Bool.eq_false_iff, ne_eq, State.peersHold_iff]
  rintro ⟨n, p, b, hp, -, present, -⟩
  exact h p (List.mem_of_getElem? hp) present

/-! ### A load begins (R166) -/

/-- With no configuration, no peers and no own demand there is nothing to rely on, no hold and no shelf demand. -/
theorem State.rejudge_unconfigured {s : State} (config : s.startup.config = none) (peers : s.peers = [])
    (demand : s.zones.ownDemand = 0) : s.rejudge = { s with
      rails := Four.of (fun r => { s.rails.get r with remoteGood := true, remoteUp := true, peerHeld := false })
      zones := { s.zones with
        entries := Eight.of (fun z => { s.zones.entries.get z with demanded := false }) } } := by
  have fitted (r : RailIx) : s.fittedConfig r = none := State.fittedConfig_none config r
  have held (t : State) (e : t.peers = s.peers) (r : RailIx) : t.peersHold r = false :=
    State.peersHold_alone (by simp [e, peers]) r
  have demanded (t : State) (e : t.peers = s.peers) (d : t.zones = s.zones) (z : ZoneIx) : t.shelfDemand z = false := by
    rw [State.shelfDemand_alone (by simp [e, peers]), d, demand, BitVec.ofNat_eq_ofNat, BitVec.getLsbD_zero]
  simp only [State.rejudge, State.takeView, fitted, held, demanded, Four.get_of]

theorem State.beginLoad_eq (s : State) (straps : BitVec 5) : s.beginLoad straps = { s with
    startup := { s.startup with load := .loading s.now, config := none, station := straps }
    line := { s.line with phase := .start, slotTimer := none }
    receiver := { s.receiver with reception := .off }
    peers := []
    rails := Four.of (fun r => { s.rails.get r with remoteGood := true, remoteUp := true, peerHeld := false })
    zones := { s.zones with
      ownDemand := 0
      entries := Eight.of (fun z => { s.zones.entries.get z with demanded := false }) } } :=
  State.rejudge_unconfigured rfl rfl rfl

/-! ### Resets (R165) -/

theorem State.endReset_eq (s : State) (cause : RestartCause) (straps : BitVec 5) :
    s.endReset cause straps = s.afterReset cause straps := by
  rw [State.endReset, State.beginLoad_eq]
  rfl

/-- Settles O4: both ends of a reset are `State.endReset`, which begins the first load. -/
theorem resetEndSetsPowerOnValues : Obligations.ResetEndSetsPowerOnValues := by
  refine fun o straps s => ⟨fun high => ?_, fun low => ?_, fun high => if_pos high⟩
  · exact (if_pos high).trans (congrArg _ (State.endReset_eq _ _ _))
  · exact (if_neg (Bool.not_eq_true _ ▸ low)).trans (congrArg _ (State.endReset_eq _ _ _))

theorem State.enterReset_heldDown (s : State) (cause : RestartCause) : (s.enterReset cause).heldDown := by
  refine ⟨fun r => ?_, rfl, rfl, rfl, rfl, rfl, rfl, rfl⟩
  rw [State.enable, State.shownState, State.fittedConfig_none rfl]
  rfl

/-- Settles O5: both ways into reset are `State.enterReset`. -/
theorem resetHoldsPartDown : Obligations.ResetHoldsPartDown := by
  refine fun o straps s => ⟨fun high => ?_, fun low => ?_, fun low => ?_⟩
  · exact ⟨_, if_pos high, (s.after o).enterReset_heldDown .resetPin, rfl, rfl, rfl, rfl⟩
  · exact ⟨_, if_neg (Bool.not_eq_true _ ▸ low), (s.after o).enterReset_heldDown .powerOn, rfl, low, rfl, rfl⟩
  · exact if_neg (Bool.not_eq_true _ ▸ low)

/-! ### The ends of a load (R171, R172) -/

section LoadEnd
variable {s : State} {began : Nat} (loading : s.startup.load = .loading began)
include loading

theorem execConfigurationLoadEnd_refused {bytes : List Byte} {e : ConfigErrorKind} {r : RailIx}
    (h : judgeImage s.own bytes = .refused e r) (o : Occasion) : execConfigurationLoadEnd o bytes s =
      .next (({ s with now := s.loadEnd o.wait began }).loadFails e r) := by
  rw [State.own] at h
  simp only [execConfigurationLoadEnd, loading, State.own, h]
  rfl

theorem execConfigurationLoadEnd_accepted {bytes : List Byte} {img : Image}
    (h : judgeImage s.own bytes = .accepted img) (o : Occasion) : execConfigurationLoadEnd o bytes s =
      .next (({ s with now := s.loadEnd o.wait began }).loadSucceeds o img) := by
  rw [State.own] at h
  simp only [execConfigurationLoadEnd, loading, State.own, h]
  rfl

end LoadEnd

theorem execConfigurationLoadEnd_idle {s : State} (idle : s.startup.load = .idle) (o : Occasion) (bytes : List Byte) :
    execConfigurationLoadEnd o bytes s = .next (s.after o) := by
  simp only [execConfigurationLoadEnd, idle]

/-- Settles O7: both outcomes of the command are those of its definition. -/
theorem loadFailsIntoUnconfigured : Obligations.LoadFailsIntoUnconfigured :=
  fun o bytes _ => ⟨fun _ _ _ loading refused => execConfigurationLoadEnd_refused loading refused o,
    fun idle => execConfigurationLoadEnd_idle idle o bytes⟩

/-- The station of an accepted image on its entry into LISTEN, before own demand and the view are judged (R171). -/
def State.listensWith (s : State) (img : Image) : State :=
  { s.withImage img with line := (s.withImage img).line.listening s.now }

/-- In START the own entry is not LOST by the entry into LISTEN (R113). -/
theorem State.listening_eq {s : State} (start : s.line.phase = .start) (img : Image) :
    s.listening img = (s.listensWith img).workOutDemand.rejudge := by
  have peers : (s.withImage img).peersSilent = (s.withImage img).peers :=
    if_neg (by rw [show (s.withImage img).line.phase = s.line.phase from rfl, start]; decide)
  rw [State.listening, State.enterListen_listening, peers]
  rfl

/-- Settles O6: with every rail in OFF and the gates closed nothing moves (`State.listening_atRest`), and the peers are
all ABSENT yet. -/
theorem loadSucceedsIntoListen : Obligations.LoadSucceedsIntoListen := by
  intro o bytes s began img loading start accepted off now
  have ends : exec (.configurationLoadEnd o bytes) s = .next (({ s with now := now }).listening img) :=
    (execConfigurationLoadEnd_accepted loading accepted o).trans
      (congrArg _ (State.settle_of_atRest (State.listening_atRest (s := { s with now := now }) img off) o))
  rw [State.listening_eq (s := { s with now := now }) start] at ends
  refine ⟨_, ends, rfl, rfl, rfl, rfl, rfl, rfl, rfl, rfl, rfl, rfl, rfl, rfl, fun z => ?_, fun r => ?_, fun r => ?_,
    rfl⟩
  · refine (Eight.get_of _ z).trans (congrArg _ (State.shelfDemand_alone (fun p hp => ?_) z))
    rw [List.eq_of_mem_replicate hp]
    decide
  · obtain ⟨_, _, _, _, rail⟩ :=
      (State.rejudge_sameTimers (State.listensWith { s with now := now } img).workOutDemand).rails r
    rw [rail]
    simp [State.listensWith, State.withImage, off]
  · exact Four.get_of _ r

/-! ### The reinitialisation (R176 to R178) -/

theorem State.reinitialises_iff (s : State) : s.reinitialises = true ↔ s.startup.restartPending = true ∧
    (∀ r, (s.rails.get r).state ≠ .falling) ∧ s.line.leaving ≠ .due ∧ s.startup.load = .idle := by
  simp [State.reinitialises, RailIx.mem_all, and_assoc]

/-- However a load ends, no restart is pending after it (R178). -/
theorem execConfigurationLoadEnd_restartPending {s : State} {began : Nat} (loading : s.startup.load = .loading began)
    (o : Occasion) (bytes : List Byte) :
    ∃ t, execConfigurationLoadEnd o bytes s = .next t ∧ t.startup.restartPending = false := by
  cases judged : judgeImage s.own bytes with
  | refused e r => exact ⟨_, execConfigurationLoadEnd_refused loading judged o, rfl⟩
  | accepted img =>
    refine ⟨_, execConfigurationLoadEnd_accepted loading judged o, ?_⟩
    rw [State.loadSucceeds_eq, State.enterListen_eq, (State.settle_moves _ o).startup]
    rfl

/-- Settles O24: `State.warmValues`, the load that begins with them, and the two ends of a load. -/
theorem reinitialisationSetsWarmValues : Obligations.ReinitialisationSetsWarmValues := by
  intro o straps s ready now
  have ready_iff : ready ↔ (s.after o).reinitialises = true := (State.reinitialises_iff _).symm
  refine ⟨fun h => (if_pos (ready_iff.1 h)).trans (congrArg _ ?_), fun h => if_neg (mt ready_iff.2 h),
    fun began bytes loading => execConfigurationLoadEnd_restartPending loading o bytes⟩
  have flags : (0 ||| if !s.records.records.isEmpty then AlertFlag.recordsWaiting.bit else 0) =
      if s.records.records = [] then 0 else 0x040 := by
    cases s.records.records <;> simp [AlertFlag.bit]
  rw [State.beginLoad_eq, State.setFlagIf_eq, ← flags]
  rfl

/-! ### RESTART (R174, R26) -/

/-- The station as RESTART leaves it: the flag set, a load abandoned, LEAVING due in ACTIVE and the rails taken down. -/
def State.restarted (s : State) : State :=
  { s with
    startup := { s.startup with restartPending := true, load := .idle }
    line := { s.line with leaving := if s.line.phase = .active then .due else s.line.leaving }
    rails := Four.of (s.downRail .restart (fun _ => true))
    monitor := { s.monitor with rails := Four.of (s.downMonitor (fun _ => true)) } }

theorem State.restarted_rail (s : State) (r : RailIx) : s.restarted.rails.get r =
    match s.fittedConfig r with
    | some c => (s.rails.get r).takenDown c .restart s.now
    | none => s.rails.get r := Four.get_of _ r

theorem State.restarted_monitor (s : State) (r : RailIx) : s.restarted.monitor.rails.get r =
    if (s.restarted.rails.get r).state = (s.rails.get r).state then s.monitor.rails.get r
    else { s.monitor.rails.get r with outside := 0, deglitch := none } := by
  rw [State.restarted_rail, State.restarted, Four.get_of, State.downMonitor]
  cases s.fittedConfig r with
  | none => exact (if_pos rfl).symm
  | some c =>
    refine (Monitor.takenDown_eq _ _ c .restart s.now).trans ?_
    simp only [ite_not]
    rfl

/-- A rail taken down waits for its gate in OFF, which the pending restart closes (R7). -/
theorem State.restarted_atRest (s : State) : s.restarted.atRest := by
  intro r c hc
  have rail := s.restarted_rail r
  rw [show s.fittedConfig r = some c from hc] at rail
  rcases Rail.takenDown_state (s.rails.get r) c .restart s.now with down | down | down <;> rw [rail, down]
  · exact State.barred.gateClosed (.inr rfl)
  · trivial
  · trivial

theorem State.acceptRestart_eq (s : State) (o : Occasion) : s.acceptRestart o = s.restarted := by
  rw [State.acceptRestart, State.takeDownAll_eq]
  exact State.settle_of_atRest s.restarted_atRest o

/-- Settles O22: no rail taken down has a move left (`State.restarted_atRest`). -/
theorem restartTakesRailsDown : Obligations.RestartTakesRailsDown := by
  intro o s command clear
  refine ⟨(s.after o).restarted, ?_, rfl, rfl, (s.after o).restarted_rail, (s.after o).restarted_monitor, rfl, rfl, rfl,
    rfl, rfl, rfl, rfl, rfl⟩
  exact (portCommand_accepted (act := fun s => (s.acceptRestart o).answer .ok []) command
    (refusal_none (s := s.after o) clear true)).trans (by rw [State.acceptRestart_eq])

end Sys2Proof.Machine

/-! Proofs about the memory port and RELOAD. -/

namespace Sys2Proof.Machine
open Sys2Proof

/-! ### The bits of a serial port (R167, R180) -/

theorem bitsMsbFirst_getElem? (b : Byte) {i : Nat} (h : i < 8) : (bitsMsbFirst b)[i]? = some (b.getLsbD (7 - i)) := by
  interval_cases i <;> rfl

theorem serialBits_getElem? (bs : List Byte) (k : Nat) :
    (serialBits bs)[k]? = bs[k / 8]?.map (fun b => b.getLsbD (7 - k % 8)) := by
  rw [serialBits, getElem?_flatMap_of_length (by decide : 0 < 8) (fun _ => rfl), Option.map_eq_bind]
  exact congrArg _ (funext fun b => bitsMsbFirst_getElem? b (Nat.mod_lt _ (by decide)))

theorem byteOfBits_bits (b : Byte) : byteOfBits (b.getLsbD 7) (b.getLsbD 6) (b.getLsbD 5) (b.getLsbD 4) (b.getLsbD 3)
    (b.getLsbD 2) (b.getLsbD 1) (b.getLsbD 0) = b := by
  conv_rhs => rw [← byte_eq_sum b]
  unfold byteOfBits
  ac_rfl

theorem bytesOfBits_serialBits (bs : List Byte) : bytesOfBits (serialBits bs) = bs := by
  induction bs with
  | nil => rfl
  | cons b bs ih =>
    show byteOfBits _ _ _ _ _ _ _ _ :: bytesOfBits (serialBits bs) = b :: bs
    rw [byteOfBits_bits, ih]

/-! ### The memory transaction (R167) -/

theorem memoryCommand_bit {k : Nat} (h : k < 888) : (serialBits memoryCommand)[k]? =
    some (if k < 24 then (0x030000 : BitVec 24).getLsbD (23 - k) else false) := by
  rw [serialBits_getElem?]
  by_cases command : k < 24
  · interval_cases k <;> rfl
  · rw [if_neg command, memoryCommand, List.getElem?_append_right (show 3 ≤ k / 8 by omega), List.getElem?_replicate]
    have inside : k / 8 - 3 < 108 := by omega
    simp [Config.imageLength, inside]

section Transaction
variable {s : State} {t : Nat} (loading : s.startup.load = .loading t)
include loading

theorem State.memorySelected_loading : s.memorySelected = decide (s.now < t + 7104) := by
  rw [State.memorySelected, loading]
  rfl

theorem State.memoryClock_loading : s.memoryClock = (s.memorySelected && decide (4 ≤ (s.now - t) % 8)) := by
  rw [State.memoryClock, loading]
  rfl

theorem State.memoryData_loading :
    s.memoryData = if s.memorySelected then (serialBits memoryCommand)[(s.now - t) / 8]? else none := by
  rw [State.memoryData, loading]
  rfl

end Transaction

/-- The image is what the transaction samples after the three bytes of the command. -/
theorem memoryImage_of_levels {image : List Byte} {levels : List Bool} (len : image.length = 108)
    (sampled : ∀ j i, j < 108 → i < 8 →
      levels.getD (8 * (24 + 8 * j + i) + 4) true = (image.getD j 0).getLsbD (7 - i)) :
    memoryImage levels = image := by
  have bits : (memoryBits levels).drop 24 = serialBits image := by
    refine List.ext_getElem? fun k => ?_
    rw [List.getElem?_drop, memoryBits, List.getElem?_map, serialBits_getElem?]
    by_cases inside : k < 864
    · have hj : k / 8 < 108 := by omega
      have at_k := sampled (k / 8) (k % 8) hj (Nat.mod_lt _ (by decide))
      rw [show 24 + 8 * (k / 8) + k % 8 = 24 + k by omega] at at_k
      rw [List.getElem?_range (by omega), List.getElem?_eq_getElem (len ▸ hj)]
      rw [List.getD_eq_getElem image _ (len ▸ hj)] at at_k
      exact congrArg some at_k
    · rw [List.getElem?_eq_none (by rw [List.length_range]; omega), List.getElem?_eq_none (by omega)]
      rfl
  rw [memoryImage, bits, bytesOfBits_serialBits]

/-- An input that nothing drives reads high. -/
theorem memoryImage_undriven : memoryImage [] = List.replicate 108 0xFF := by
  refine memoryImage_of_levels (List.length_replicate ..) fun j i hj hi => ?_
  rw [List.getD_replicate _ hj]
  interval_cases i <;> rfl

/-! ### RELOAD (R173) -/

theorem execReload_unconfigured {s : State} (command : s.port.transaction = .command)
    (clear : s.startup.restartPending = false) (phase : s.line.phase = .unconfigured) (o : Occasion)
    (straps : BitVec 5) : execReload o straps s = .next (((s.after o).beginLoad straps).answer .ok []) :=
  portCommand_accepted command (by simp [refusal, clear, phase, anyArgument])

/-- Settles O23: the levels of each bit, the image that the levels of CM_MISO give, and the load RELOAD begins. -/
theorem reloadBeginsLoad : Obligations.ReloadBeginsLoad := by
  refine ⟨fun s => ⟨fun idle => ?_, fun began loading past => ⟨fun inside => ?_, fun ended => ?_⟩⟩,
    fun _ _ len sampled => memoryImage_of_levels len sampled, memoryImage_undriven,
    fun o straps s command clear phase => ?_⟩
  · rw [State.memorySelected, State.memoryClock, idle]
    exact ⟨rfl, rfl⟩
  · have selected : s.memorySelected = true :=
      (State.memorySelected_loading loading).trans (decide_eq_true (by omega))
    rw [State.memoryClock_loading loading, State.memoryData_loading loading, selected, if_pos rfl,
      memoryCommand_bit (by omega)]
    exact ⟨rfl, Bool.true_and _, rfl⟩
  · have released : s.memorySelected = false :=
      (State.memorySelected_loading loading).trans (decide_eq_false (by omega))
    rw [State.memoryClock_loading loading, released]
    exact ⟨rfl, rfl⟩
  · exact (execReload_unconfigured command clear phase o straps).trans (by rw [State.beginLoad_eq]; rfl)

end Sys2Proof.Machine

/-! Proofs about the execution of board-port commands: what refuses a command, the answers of the six reads, and the
commands that set the port's masks and flags. -/

namespace Sys2Proof.Machine
open Sys2Proof

/-! ### Commands refused (R183) -/

/-- A refused command changes nothing but the last result (R183). -/
theorem portCommand_refused {o : Occasion} {changes : Bool} {phases : LinePhase → Bool} {inRange : State → Bool}
    {act : State → State} {s : State} {x : Result} (command : s.port.transaction = .command)
    (refused : refusal (s.after o) changes phases (inRange (s.after o)) = some x) :
    portCommand o changes phases inRange act s = .next ((s.after o).answer x []) := by
  unfold portCommand
  dsimp only
  rw [if_pos (show (s.after o).port.transaction = .command from command), refused]

/-- Nothing but its argument refuses a read (R183). -/
theorem refusal_read (s : State) (inRange : Bool) :
    refusal s false anyPhase inRange = if inRange then none else some .range := by
  cases inRange <;> simp [refusal, anyPhase]

theorem refusal_pending {s : State} (pending : s.startup.restartPending = true) (phases : LinePhase → Bool)
    (inRange : Bool) : refusal s true phases inRange = some .busy := by
  simp [refusal, pending]

theorem refusal_clear {s : State} (clear : s.startup.restartPending = false) (phases : LinePhase → Bool)
    (inRange : Bool) : refusal s true phases inRange =
      if phases s.line.phase then (if inRange then none else some .range) else some .state := by
  cases allowed : phases s.line.phase <;> cases inRange <;> simp [refusal, clear, allowed]

theorem configuredPhase_iff (p : LinePhase) : configuredPhase p = true ↔ p = .listen ∨ p = .active ∨ p = .muted := by
  cases p <;> simp [configuredPhase]

section
variable {o : Occasion} {phases : LinePhase → Bool} {inRange : State → Bool} {act : State → State} {s : State}
  (command : s.port.transaction = .command)
include command

theorem portCommand_busy (pending : s.startup.restartPending = true) :
    portCommand o true phases inRange act s = .next ((s.after o).answer .busy []) :=
  portCommand_refused command (refusal_pending (s := s.after o) pending _ _)

theorem portCommand_state (clear : s.startup.restartPending = false) (phase : phases s.line.phase = false) :
    portCommand o true phases inRange act s = .next ((s.after o).answer .state []) :=
  portCommand_refused command ((refusal_clear (s := s.after o) clear _ _).trans (by simp [phase]))

theorem portCommand_range (clear : s.startup.restartPending = false) (phase : phases s.line.phase = true)
    (range : inRange (s.after o) = false) :
    portCommand o true phases inRange act s = .next ((s.after o).answer .range []) :=
  portCommand_refused command ((refusal_clear (s := s.after o) clear _ _).trans (by simp [phase, range]))

theorem portRead_range (range : inRange (s.after o) = false) :
    portCommand o false anyPhase inRange act s = .next ((s.after o).answer .range []) :=
  portCommand_refused command ((refusal_read _ _).trans (by simp [range]))

theorem portRead_accepted (range : inRange (s.after o) = true) :
    portCommand o false anyPhase inRange act s = .next (act (s.after o)) :=
  portCommand_accepted command ((refusal_read _ _).trans (by simp [range]))

end

/-- Settles O12: each refusal by the lemma of its result, UNKNOWN being the answer of the command itself. -/
theorem commandsAreRefusedInOrder : Obligations.CommandsAreRefusedInOrder := by
  simp only [Obligations.CommandsAreRefusedInOrder, exec]
  refine ⟨fun o s mask z code half straps command => ⟨portRead_accepted command rfl, fun pending => ?_⟩,
    fun o s mask b straps command => ⟨fun large => ?_, fun large => ?_, fun missing => ?_,
      fun clear => ⟨fun phase => ?_, fun phase large => ?_, fun phase => ?_, fun phase => ?_⟩⟩⟩
  · have busy {phases : LinePhase → Bool} {inRange : State → Bool} {act : State → State} :=
      portCommand_busy (o := o) (phases := phases) (inRange := inRange) (act := act) command pending
    simp only [List.forall_mem_cons]
    exact ⟨busy, busy, busy, busy, busy, busy, busy, busy, List.forall_mem_nil _⟩
  · exact portRead_range command (decide_eq_false (by omega))
  · exact portRead_range command (decide_eq_false (by omega))
  · refine portRead_range command ?_
    have absent : ¬ (b.toNat < s.shelfSize ∧ b.toNat < s.peers.length) := by
      rintro ⟨inShelf, entry⟩
      rcases missing with beyond | empty
      · omega
      · simp [empty] at entry
    rw [← Bool.decide_and]
    exact decide_eq_false absent
  · have shut : configuredPhase s.line.phase = false := by rcases phase with h | h <;> rw [h] <;> rfl
    exact ⟨portCommand_state command clear shut, portCommand_state command clear shut⟩
  · exact portCommand_range command clear ((configuredPhase_iff _).2 phase) (decide_eq_false (by omega))
  · exact portCommand_state command clear (decide_eq_false phase)
  · exact portCommand_state command clear (decide_eq_false phase)

/-! ### Payloads (R185 to R187, Table 66) -/

/-- The high byte of a field of up to 16 bits, given the number of its bits above the eighth. -/
theorem highByte_setWidth {n : Nat} (w : BitVec n) (k : Nat) (width : n ≤ 8 + k) :
    highByte (w.setWidth 16) = (w.extractLsb' 8 k).setWidth 8 := by
  refine BitVec.eq_of_getLsbD_eq fun i hi => ?_
  rw [highByte, BitVec.getLsbD_extractLsb', BitVec.getLsbD_setWidth, BitVec.getLsbD_setWidth,
    BitVec.getLsbD_extractLsb']
  by_cases inside : i < k
  · simp [hi, inside, show 8 + i < 16 by omega]
  · simp [inside, BitVec.getLsbD_of_ge w (8 + i) (by omega)]

theorem lowByte_setWidth {n : Nat} (w : BitVec n) : lowByte (w.setWidth 16) = w.extractLsb' 0 8 := by
  refine BitVec.eq_of_getLsbD_eq fun i hi => ?_
  simp [lowByte, hi, show i < 16 by omega]

theorem State.toByte_own (s : State) : toByte s.own = s.startup.station.setWidth 8 := BitVec.ofNat_toNat _ _

/-- Settles O13: the payloads' fields byte by byte, and the zones named by `zoneMask`. -/
theorem readsOfStationLinePeerZones : Obligations.ReadsOfStationLinePeerZones := by
  simp only [Obligations.ReadsOfStationLinePeerZones, exec]
  refine ⟨⟨rfl, rfl, rfl, rfl, rfl, rfl, rfl⟩, fun o s command => ⟨?_, portRead_accepted command rfl⟩,
    fun o s command => ⟨fun n p inShelf entry => ?_, ?_⟩⟩
  · refine (portRead_accepted command rfl).trans ?_
    rw [State.stationPayload, State.toByte_own, twoBytes, twoBytes, twoBytes, highByte_setWidth _ 1 (by decide),
      highByte_setWidth _ 1 (by decide), lowByte_setWidth, lowByte_setWidth]
    rfl
  · have listed : n.toNat < s.peers.length := (List.getElem?_eq_some_iff.1 entry).1
    refine (portRead_accepted command (Bool.and_eq_true_iff.2 ⟨decide_eq_true inShelf, decide_eq_true listed⟩)).trans ?_
    rw [State.after_peers, List.getD_eq_getElem?_getD, entry]
    rfl
  · exact ⟨s.tripMask, zoneMask s.demanded, zoneMask (fun z => (s.zones.entries.get z).record.isSome),
      fun z => ⟨by rw [State.tripMask, zoneMask_getLsbD, decide_eq_true_iff], zoneMask_getLsbD _ z,
        zoneMask_getLsbD _ z⟩, portRead_accepted command rfl⟩

theorem RailIx.ofIndex_toByte (r : RailIx) : RailIx.ofIndex (toByte r.toNat).toNat = r := by cases r <;> rfl

theorem TripRecord.payload_eq (t : TripRecord) : t.payload =
    [toByte t.station, toByte (16 * t.kind.code + t.rail.toNat), t.cycle.extractLsb' 8 8, t.cycle.extractLsb' 0 8,
      toByte t.slot, toByte (t.offset / 256), toByte t.offset] := by
  simp only [TripRecord.payload, twoBytes, highByte_ofNat, lowByte_ofNat]
  rfl

theorem State.shownState_code (s : State) (r : RailIx) : (s.shownState r).code =
    match s.fittedConfig r with
    | some _ => (s.rails.get r).state.code
    | none => 0 := by
  unfold State.shownState
  cases s.fittedConfig r <;> rfl

/-- Settles O14: the record or its absence for each zone, and the rail as it is shown. -/
theorem readTripAndRailAnswer : Obligations.ReadTripAndRailAnswer := by
  simp only [Obligations.ReadTripAndRailAnswer, exec]
  refine ⟨⟨rfl, rfl, rfl⟩, fun o s command => ⟨fun z => ?_, fun r => ?_⟩⟩
  · have range : decide ((toByte z.toNat).toNat ≤ 7) = true := by cases z <;> rfl
    refine ⟨fun absent => (portRead_accepted command range).trans ?_,
      fun t held => (portRead_accepted command range).trans ?_⟩
    · simp only [ZoneIx.ofIndex_toByte, State.after_zones, absent]
      rfl
    · simp only [ZoneIx.ofIndex_toByte, State.after_zones, held, TripRecord.payload_eq]
  · have range : decide ((toByte r.toNat).toNat ≤ 3) = true := by cases r <;> rfl
    refine (portRead_accepted command range).trans ?_
    rw [RailIx.ofIndex_toByte, State.railPayload, State.shownState_code, twoBytes, highByte_setWidth _ 4 (by decide),
      lowByte_setWidth]
    rfl

/-! ### SET_DEMAND (R189) -/

/-- SET_DEMAND in a phase with a configuration, no restart pending, takes the mask and then lets the rails move. -/
theorem execSetDemand_configured {s : State} (command : s.port.transaction = .command)
    (clear : s.startup.restartPending = false) (phase : configuredPhase s.line.phase = true) (o : Occasion)
    (mask : Byte) :
    execSetDemand o mask s = .next ((((s.after o).withDemand mask).settle o).answer .ok []) :=
  portCommand_accepted command ((refusal_clear (s := s.after o) clear _ _).trans (by simp [phase, anyArgument]))

/-- Settles O16: `State.withDemand` is the state from which the moves begin. -/
theorem setDemandReplacesMask : Obligations.SetDemandReplacesMask := by
  intro o mask s c command clear config phase own
  have ownDemand : ({ s.after o with port := { s.port with portDemand := mask } } : State).ownDemandNow = own := by
    rw [State.ownDemandNow, State.after_startup, config]
    rfl
  refine ⟨_, execSetDemand_configured command clear ((configuredPhase_iff _).2 phase) o mask, ?_⟩
  have settles := State.settle_settlesTo ((s.after o).withDemand mask) o
  clear_value own
  subst ownDemand
  exact settles

/-! ### ACK_FLAGS and SET_ALERT_MASK (R193 to R195) -/

/-- Settles O19: the flags are read bit by bit. -/
theorem ackFlagsClearsNamedFlags : Obligations.AckFlagsClearsNamedFlags := by
  simp only [Obligations.AckFlagsClearsNamedFlags, exec]
  intro o mask s command clear
  refine ⟨_, portCommand_accepted command (refusal_none (s := s.after o) clear true), fun i hi => ?_, rfl⟩
  show (s.port.flags &&& ~~~(mask.setWidth 9)).getLsbD i = _
  rw [BitVec.getLsbD_and, BitVec.getLsbD_not, BitVec.getLsbD_setWidth]
  simp [hi]

/-- ALERT_N is low out of reset exactly while an enabled flag is set (R195). -/
theorem State.alertLow_iff {s : State} (h : s.startup.inReset = none) : s.alertLow = true ↔
    ∃ i, i < 9 ∧ s.port.flags.getLsbD i = true ∧ s.port.mask.getLsbD i = true := by
  rw [State.alertLow, h, Option.isNone_none, Bool.true_and, bne_iff_ne]
  constructor
  · intro enabled
    by_contra unset
    refine enabled (BitVec.eq_of_getLsbD_eq fun i hi => ?_)
    rw [BitVec.getLsbD_and, BitVec.ofNat_eq_ofNat, BitVec.getLsbD_zero, Bool.eq_false_iff, ne_eq, Bool.and_eq_true_iff]
    exact fun ⟨flag, allowed⟩ => unset ⟨i, hi, flag, allowed⟩
  · rintro ⟨i, -, flag, allowed⟩ quiet
    have bit := congrArg (BitVec.getLsbD · i) quiet
    simp [flag, allowed] at bit

/-- Settles O20: the mask's bits are those of the low byte, then that of the high byte. -/
theorem setAlertMaskReplacesMask : Obligations.SetAlertMaskReplacesMask := by
  simp only [Obligations.SetAlertMaskReplacesMask, exec]
  refine fun o straps hi lo s => ⟨rfl, fun command pending => portCommand_busy command pending,
    fun command clear => ⟨_, portCommand_accepted command (refusal_none (s := s.after o) clear true), fun i h => ?_, ?_,
      rfl, fun running => State.alertLow_iff running⟩⟩
  · show ((hi ++ lo).setWidth 9).getLsbD i = lo.getLsbD i
    rw [BitVec.getLsbD_setWidth, BitVec.getLsbD_append]
    simp [h, show i < 9 by omega]
  · show ((hi ++ lo).setWidth 9).getLsbD 8 = hi.getLsbD 0
    rw [BitVec.getLsbD_setWidth, BitVec.getLsbD_append]
    simp

end Sys2Proof.Machine

/-! Proofs about the board port's wire: the bytes that the bits of a transaction spell, its states, and BP_MISO. -/

namespace Sys2Proof.Machine
open Sys2Proof

/-! ### Bits and command bytes (R180, R181, Table 52) -/

theorem bytesOfBits_short {bits : List Bool} (h : bits.length < 8) : bytesOfBits bits = [] := by
  unfold bytesOfBits
  split
  · simp only [List.length_cons] at h
    omega
  · rfl

/-- Bits short of a byte add none. -/
theorem bytesOfBits_serialBits_append (bs : List Byte) {more : List Bool} (h : more.length < 8) :
    bytesOfBits (serialBits bs ++ more) = bs := by
  induction bs with
  | nil => exact bytesOfBits_short h
  | cons b bs ih =>
    show byteOfBits _ _ _ _ _ _ _ _ :: bytesOfBits (serialBits bs ++ more) = b :: bs
    rw [byteOfBits_bits, ih]

theorem argumentBytes_unnamed {code : Byte} (h : code ∉ commandCodes.map (·.1)) : argumentBytes code = none := by
  rw [argumentBytes, Option.map_eq_none_iff, List.find?_eq_none]
  intro p hp named
  exact h (List.mem_map.2 ⟨p, hp, eq_of_beq named⟩)

/-- Two commands take a half, five take a byte, and nothing else has an argument (Table 52). -/
theorem argumentBytes_getD (code : Byte) : (argumentBytes code).getD 0 =
    if code ∈ [0x12, 0x14, 0x15, 0x30, 0x31] then 1 else if code ∈ [0x32, 0x33] then 2 else 0 := by
  by_cases named : code ∈ commandCodes.map (·.1)
  · simp only [commandCodes, List.map_cons, List.map_nil, List.mem_cons, List.not_mem_nil, or_false] at named
    rcases named with rfl | rfl | rfl | rfl | rfl | rfl | rfl | rfl | rfl | rfl | rfl | rfl | rfl | rfl <;> rfl
  · rw [argumentBytes_unnamed named,
      if_neg fun h => named ((by decide : [0x12, 0x14, 0x15, 0x30, 0x31] ⊆ commandCodes.map (·.1)) h),
      if_neg fun h => named ((by decide : [0x32, 0x33] ⊆ commandCodes.map (·.1)) h)]
    rfl

/-- Settles O11: the bytes come back from their bits, and each code is looked up in Table 52. -/
theorem portBytesSpellCommands : Obligations.PortBytesSpellCommands := by
  refine ⟨fun bs more h => bytesOfBits_serialBits_append bs h, fun b bs i h => ?_, fun bits => ?_,
    fun o straps a b more => ⟨rfl, rfl, rfl, rfl, rfl, rfl, rfl, rfl, rfl, rfl, rfl, rfl, rfl, rfl, fun unnamed => ?_⟩⟩
  · rw [serialBits_getElem?, Nat.div_eq_of_lt h, Nat.mod_eq_of_lt h]
    rfl
  · induction bits with
    | nil => rfl
    | cons d bits ih => exact congrArg (d :: ·) ih
  · simp only [decodePort, argumentBytes_unnamed unnamed]

/-! ### The states of a transaction (R180, R182) -/

theorem State.transactionAfter_other {s : State} (h : s.port.transaction ≠ .command) (mosi : List Bool) :
    s.transactionAfter mosi = s.port.transaction := by
  unfold State.transactionAfter
  cases ht : s.port.transaction with
  | command => exact absurd ht h
  | idle | arguments | response => rfl

section
variable {s : State} (command : s.port.transaction = .command)
include command

theorem State.transactionAfter_short {mosi : List Bool} (h : mosi.length < 8) : s.transactionAfter mosi = .command := by
  rw [State.transactionAfter, command]
  dsimp only
  rw [bytesOfBits_short h]

theorem State.transactionAfter_bytes (code : Byte) (args : List Byte) {more : List Bool} (h : more.length < 8) :
    s.transactionAfter (serialBits (code :: args) ++ more) =
      if args.length < (argumentBytes code).getD 0 then .arguments else .response := by
  rw [State.transactionAfter, command]
  dsimp only
  rw [bytesOfBits_serialBits_append _ h]

end

/-- A command cut by the end of its transaction has not executed: it is in COMMAND with a bit taken, or in ARGUMENTS. -/
theorem execTransactionEnd_eq (o : Occasion) (mosi : List Bool) (s : State) :
    execTransactionEnd o mosi s = .next { s.after o with port := { s.port with
      selectLow := false, transaction := .idle, response := []
      lastResult :=
        if (s.transactionAfter mosi = .command ∧ mosi ≠ []) ∨ s.transactionAfter mosi = .arguments then .truncated
        else s.port.lastResult } } := by
  have same : (s.after o).transactionAfter mosi = s.transactionAfter mosi := rfl
  simp only [execTransactionEnd, same]
  cases s.transactionAfter mosi <;> simp

/-! ### BP_MISO (R180) -/

theorem serialBits_getD (bs : List Byte) (k : Nat) :
    (serialBits bs).getD k false = (bs.getD (k / 8) 0).getLsbD (7 - k % 8) := by
  rw [List.getD_eq_getElem?_getD, List.getD_eq_getElem?_getD, serialBits_getElem?]
  cases bs[k / 8]? <;> simp

/-- Zeros follow the response for as long as bytes are shifted out. -/
theorem getD_take_append_zeros (bs : List Byte) {j n : Nat} (h : j < n) :
    ((bs ++ List.replicate n 0).take n).getD j 0 = bs.getD j 0 := by
  simp only [List.getD_eq_getElem?_getD, List.getElem?_take_of_lt h, List.getElem?_append]
  by_cases inside : j < bs.length
  · rw [if_pos inside]
  · rw [if_neg inside, List.getElem?_replicate, List.getElem?_eq_none (by omega)]
    split <;> rfl

section
variable {s : State} (selected : s.port.selectLow = true)
include selected

theorem State.misoBytes_selected (n : Nat) : s.misoBytes n = some
    (if s.port.transaction = .response then (s.port.response ++ List.replicate n 0).take n
      else List.replicate n 0) := by
  rw [State.misoBytes, if_pos selected]
  cases s.port.transaction <;> simp

theorem State.misoLevel_zero : s.misoLevel 0 = some false := by
  rw [State.misoLevel, State.misoBytes_selected selected]
  rfl

/-- Falling edge `k + 1` brings bit `k` of the response, most significant first. -/
theorem State.misoLevel_succ (k : Nat) : s.misoLevel (k + 1) = some
    (if s.port.transaction = .response then (s.port.response.getD (k / 8) 0).getLsbD (7 - k % 8) else false) := by
  rw [State.misoLevel, State.misoBytes_selected selected, Option.map_some]
  dsimp only
  rw [serialBits_getD]
  by_cases response : s.port.transaction = .response
  · rw [if_pos response, if_pos response, getD_take_append_zeros _ (by omega)]
  · rw [if_neg response, if_neg response, List.getD_replicate _ (by omega), BitVec.ofNat_eq_ofNat,
      BitVec.getLsbD_zero]

end

/-- Settles O10: the two ends of a transaction, its states by the bytes its bits spell, and BP_MISO bit by bit. -/
theorem transactionsBeginAndEnd : Obligations.TransactionsBeginAndEnd := by
  refine ⟨fun o s => ⟨fun high => ?_, fun low => if_pos low⟩, fun o mosi s => execTransactionEnd_eq o mosi s,
    fun s mosi => ⟨fun other => State.transactionAfter_other other mosi, fun command =>
      ⟨State.transactionAfter_short command, fun code args more spelled short => ?_⟩⟩,
    fun s falls => ⟨fun high => ?_, fun low before => ?_, fun low response j i hi at_fall => ?_⟩⟩
  · refine (if_neg (by simp [high])).trans ?_
    cases reset : s.startup.inReset <;> simp [reset]
  · rw [spelled, State.transactionAfter_bytes command code args short, argumentBytes_getD]
  · rw [State.misoLevel, State.misoBytes, if_neg (by simp [high])]
    rfl
  · cases falls with
    | zero => exact State.misoLevel_zero low
    | succ k => rw [State.misoLevel_succ low, if_neg (before.resolve_right (Nat.succ_ne_zero k))]
  · rw [at_fall, State.misoLevel_succ low, if_pos response, show (8 * j + i) / 8 = j by omega,
      show (8 * j + i) % 8 = i by omega]

end Sys2Proof.Machine

/-! Proofs about the byte formats: what a changed byte does to a CRC, and a frame's bytes with what they carry. -/

namespace Sys2Proof.Machine
open Sys2Proof

/-! ### The CRC loses nothing of its register (R198) -/

/-- Bit 0 of the register after a step tells whether 1021h was combined in, so the step can be undone. -/
theorem crcStep_injective : Function.Injective crcStep := by
  have low (reg : Half) : (crcStep reg).getLsbD 0 = reg.msb := by
    cases h : reg.msb <;> simp [crcStep, h]
  intro p q same
  have tops : p.msb = q.msb := by rw [← low p, ← low q, same]
  have shifted : p <<< 1 = q <<< 1 := by
    cases h : q.msb <;> simpa [crcStep, tops, h, BitVec.xor_left_inj] using same
  refine BitVec.eq_of_getLsbD_eq fun i hi => ?_
  by_cases top : i = 15
  · subst top
    simpa [BitVec.msb_eq_getLsbD_last] using tops
  · have bits := congrArg (·.getLsbD (i + 1)) shifted
    simpa [show i + 1 < 16 by omega, ← BitVec.getLsbD_eq_getElem] using bits

theorem crcSteps_injective (n : Nat) : Function.Injective (crcSteps n) := by
  induction n with
  | zero => exact Function.injective_id
  | succ n ih => exact ih.comp crcStep_injective

theorem crcByte_left_injective (b : Byte) : Function.Injective (crcByte · b) :=
  fun _ _ same => (BitVec.xor_left_inj _).1 (crcSteps_injective 8 same)

theorem crcByte_right_injective (reg : Half) : Function.Injective (crcByte reg) := by
  intro a b same
  have added : a ++ (0 : Byte) = b ++ (0 : Byte) := (BitVec.xor_right_inj reg).1 (crcSteps_injective 8 same)
  exact (BitVec.append_left_inj _).1 added

/-- Bytes that follow keep two different registers different. -/
theorem foldl_crcByte_injective (bs : List Byte) : Function.Injective (bs.foldl crcByte) := by
  induction bs with
  | nil => exact Function.injective_id
  | cons b bs ih => exact ih.comp (crcByte_left_injective b)

/-- Settles O49: the changed byte changes the register, and the bytes after it keep the registers apart. -/
theorem crcCatchesChangedByte : Obligations.CrcCatchesChangedByte := by
  refine ⟨by decide +kernel, fun before after a b changed same => changed ?_⟩
  simp only [crc, List.foldl_append, List.foldl_cons] at same
  exact crcByte_right_injective _ (foldl_crcByte_injective after same)

/-! ### Fields of a frame (Tables 58 to 62) -/

theorem highByte_append_lowByte (w : Half) : highByte w ++ lowByte w = w :=
  (BitVec.extractLsb'_append_extractLsb'_eq_extractLsb' rfl).trans BitVec.extractLsb'_eq_self

theorem highByte_toNat (w : Half) : (highByte w).toNat = w.toNat / 256 := by
  rw [highByte, BitVec.extractLsb'_toNat, Nat.shiftRight_eq_div_pow]
  omega

theorem lowByte_toNat (w : Half) : (lowByte w).toNat = w.toNat % 256 := by
  rw [lowByte, BitVec.extractLsb'_toNat, Nat.shiftRight_zero]

theorem byteAt_drop (bs : List Byte) (i j : Nat) : byteAt (bs.drop i) j = byteAt bs (i + j) := by
  rw [byteAt, byteAt, List.getD_eq_getElem?_getD, List.getD_eq_getElem?_getD, List.getElem?_drop]

theorem RailState.code_lt (x : RailState) : x.code < 8 := by cases x <;> decide

theorem RailState.ofCode_eq_iff (n : Nat) (x : RailState) : RailState.ofCode n = x ↔ n % 8 = x.code := by
  have h : n % 8 < 8 := Nat.mod_lt _ (by decide)
  unfold RailState.ofCode
  generalize n % 8 = m at h
  interval_cases m <;> cases x <;> simp [RailState.code]

theorem railsField_toNat (f : Four RailState) :
    (railsField f).toNat = f.r0.code + 8 * f.r1.code + 64 * f.r2.code + 512 * f.r3.code := by
  have := f.r0.code_lt
  have := f.r1.code_lt
  have := f.r2.code_lt
  have := f.r3.code_lt
  exact Nat.mod_eq_of_lt (by omega)

theorem railsOfField_railsField (f : Four RailState) : railsOfField (railsField f) = f := by
  have := f.r0.code_lt
  have := f.r1.code_lt
  have := f.r2.code_lt
  have := f.r3.code_lt
  refine Four.ext_get fun r => ?_
  rw [railsOfField, Four.get_of, RailState.ofCode_eq_iff, railsField_toNat]
  cases r <;> simp only [RailIx.toNat, Four.get] <;> omega

/-- The third byte of a trip part holds its fault kind and its rail. -/
theorem TripPart.toBytes_kindRail (p : TripPart) (more : List Byte) :
    (byteAt (p.toBytes ++ more) 2).toNat = 16 * p.kindCode.toNat + p.rail.toNat := by
  have := p.kindCode.isLt
  have := RailIx.toNat_lt p.rail
  exact Nat.mod_eq_of_lt (by omega)

/-- A trip part is read back from its eight bytes, whatever follows them. -/
theorem TripPart.ofBytes_toBytes (p : TripPart) (more : List Byte) : TripPart.ofBytes (p.toBytes ++ more) 0 = p := by
  have railFits := RailIx.toNat_lt p.rail
  have kind : (byteAt (p.toBytes ++ more) 2).extractLsb' 4 3 = p.kindCode := by
    have kindFits := p.kindCode.isLt
    apply BitVec.eq_of_toNat_eq
    rw [BitVec.extractLsb'_toNat, p.toBytes_kindRail, Nat.shiftRight_eq_div_pow]
    omega
  have rail : RailIx.ofIndex (byteAt (p.toBytes ++ more) 2).toNat = p.rail := by
    rw [RailIx.ofIndex_eq_iff, p.toBytes_kindRail]
    omega
  calc TripPart.ofBytes (p.toBytes ++ more) 0
      = { zone := p.zone, station := p.station, kindCode := (byteAt (p.toBytes ++ more) 2).extractLsb' 4 3
          rail := RailIx.ofIndex (byteAt (p.toBytes ++ more) 2).toNat, cycle := highByte p.cycle ++ lowByte p.cycle
          slot := p.slot, offset := highByte p.offset ++ lowByte p.offset } := rfl
    _ = p := by rw [kind, rail, highByte_append_lowByte, highByte_append_lowByte]

theorem TripPart.ofBytes_drop (bs : List Byte) (i : Nat) : TripPart.ofBytes (bs.drop i) 0 = TripPart.ofBytes bs i := by
  simp only [TripPart.ofBytes, halfAt, byteAt_drop, Nat.zero_add, Nat.add_assoc, Nat.add_zero, Nat.reduceAdd]

/-! ### The flags byte (Table 60) -/

section
variable {f : Frame} (few : f.holds.length ≤ 8)
include few

theorem Frame.flagsByte_toNat : f.flagsByte.toNat =
    (if f.leaving then 32 else 0) + (if f.part.isSome then 16 else 0) + f.holds.length := by
  refine Nat.mod_eq_of_lt ?_
  split <;> split <;> omega

theorem Frame.holdCount_flagsByte : holdCount f.flagsByte = f.holds.length := by
  rw [holdCount, Frame.flagsByte_toNat few]
  split <;> split <;> omega

theorem Frame.flagsByte_part : f.flagsByte.getLsbD 4 = f.part.isSome := by
  rw [BitVec.getLsbD, Nat.testBit_eq_decide_div_mod_eq, Frame.flagsByte_toNat few]
  cases f.part.isSome <;> cases f.leaving <;> simp <;> omega

theorem Frame.flagsByte_leaving : f.flagsByte.getLsbD 5 = f.leaving := by
  rw [BitVec.getLsbD, Nat.testBit_eq_decide_div_mod_eq, Frame.flagsByte_toNat few]
  cases f.part.isSome <;> cases f.leaving <;> simp <;> omega

end

/-! ### A frame's bytes (Table 59) -/

theorem Frame.body_length (f : Frame) :
    f.body.length = 18 + f.holds.length + (if f.part.isSome then 8 else 0) := by
  cases h : f.part <;> simp [Frame.body, Eight.toList, TripPart.toBytes, h] <;> omega

theorem Frame.toBytes_length_body (f : Frame) : f.toBytes.length = f.body.length + 3 := by
  simp [Frame.toBytes]

theorem Frame.toBytes_length (f : Frame) :
    f.toBytes.length = 21 + f.holds.length + (if f.part.isSome then 8 else 0) := by
  rw [f.toBytes_length_body, f.body_length]
  omega

/-- After the trip mask come the hold list, the trip part and the CRC. -/
theorem Frame.toBytes_drop (f : Frame) : f.toBytes.drop 19 =
    f.holds ++ (f.part.elim [] TripPart.toBytes ++ [highByte (crc f.body), lowByte (crc f.body)]) := by
  unfold Frame.toBytes
  generalize crc f.body = sum
  cases h : f.part <;> simp [Frame.body, Eight.toList, h]

theorem Frame.toBytes_hold (f : Frame) {i : Nat} (h : i < f.holds.length) :
    byteAt f.toBytes (19 + i) = byteAt f.holds i := by
  rw [← byteAt_drop, f.toBytes_drop]
  exact List.getD_append _ _ _ _ h

theorem Frame.toBytes_drop_holds {f : Frame} {p : TripPart} (h : f.part = some p) :
    f.toBytes.drop (19 + f.holds.length) = p.toBytes ++ [highByte (crc f.body), lowByte (crc f.body)] := by
  rw [← List.drop_drop, f.toBytes_drop, List.drop_left, h]
  rfl

/-- The last two bytes are the CRC of all but the first and themselves (R198). -/
theorem Frame.toBytes_check (f : Frame) :
    byteAt f.toBytes (f.toBytes.length - 2) ++ byteAt f.toBytes (f.toBytes.length - 1) =
      crc ((f.toBytes.take (f.toBytes.length - 2)).drop 1) := by
  have last (i : Nat) : byteAt f.toBytes (f.body.length + 1 + i) =
      byteAt [highByte (crc f.body), lowByte (crc f.body)] i := by
    rw [← byteAt_drop]
    exact congrArg (byteAt · i) (List.drop_left (l₁ := Config.startByte :: f.body))
  have covered : f.toBytes.take (f.body.length + 1) = Config.startByte :: f.body :=
    List.take_left (l₁ := Config.startByte :: f.body)
  rw [f.toBytes_length_body, show f.body.length + 3 - 2 = f.body.length + 1 + 0 by omega,
    show f.body.length + 3 - 1 = f.body.length + 1 + 1 by omega, last, last, covered]
  exact highByte_append_lowByte _

theorem Frame.toBytes_flags (f : Frame) : byteAt f.toBytes 2 = f.flagsByte := rfl

section
variable {f : Frame} (few : f.holds.length ≤ 8)
include few

theorem Frame.flaggedLength_flagsByte : flaggedLength f.flagsByte = f.toBytes.length := by
  rw [flaggedLength, Frame.holdCount_flagsByte few, Frame.flagsByte_part few, f.toBytes_length]

theorem Frame.expectedLength_toBytes : expectedLength f.toBytes = some f.toBytes.length := by
  have long := f.toBytes_length
  rw [expectedLength_flagged (by omega), f.toBytes_flags, Frame.holdCount_flagsByte few,
    Frame.flaggedLength_flagsByte few]
  exact if_neg (by omega)

/-- What a frame's bytes carry is the frame. -/
theorem Frame.ofBytes_toBytes : Frame.ofBytes f.toBytes = f := by
  have generations : Eight.of (fun z => byteAt f.toBytes (10 + z.toNat)) = f.generations := rfl
  have holds : (f.toBytes.drop 19).take f.holds.length = f.holds := by rw [f.toBytes_drop, List.take_left]
  have part : (if f.part.isSome then some (TripPart.ofBytes f.toBytes (19 + f.holds.length)) else none) = f.part := by
    cases h : f.part with
    | none => rfl
    | some p => rw [← TripPart.ofBytes_drop, Frame.toBytes_drop_holds h, TripPart.ofBytes_toBytes]; rfl
  unfold Frame.ofBytes
  rw [f.toBytes_flags, generations, Frame.holdCount_flagsByte few, holds, Frame.flagsByte_leaving few,
    Frame.flagsByte_part few, part]
  calc _ = { f with signature := highByte f.signature ++ lowByte f.signature
                    cycle := highByte f.cycle ++ lowByte f.cycle
                    rails := railsOfField (highByte (railsField f.rails) ++ lowByte (railsField f.rails)) } := rfl
    _ = f := by simp only [highByte_append_lowByte, railsOfField_railsField]

/-- None of the eight checks finds a fault in a frame of the shelf, from a station with another number. -/
theorem judgeFrame_toBytes {img : Image} {own : Nat} (known : f.signature = img.signature)
    (inShelf : f.station.toNat < img.shelfSize) (other : f.station.toNat ≠ own) :
    judgeFrame img own (f.toBytes.map fun b => { data := b, stopGood := true }) = .valid f := by
  have data : (f.toBytes.map fun b => ({ data := b, stopGood := true } : RxByte)).map (·.data) = f.toBytes := by
    rw [List.map_map]
    exact List.map_id _
  have judged := judgeFrame_firstFault img own (f.toBytes.map fun b => { data := b, stopGood := true })
  simp only [frameFaults, data, f.toBytes_flags, Frame.holdCount_flagsByte few,
    Frame.flaggedLength_flagsByte few, List.take_length, Frame.ofBytes_toBytes few] at judged
  refine judged.passed ?_
  have long := f.toBytes_length
  have stops : ¬ ∃ b ∈ f.toBytes.map fun b => ({ data := b, stopGood := true } : RxByte), b.stopGood = false := by
    simp
  have signature : halfAt f.toBytes 3 = img.signature := (highByte_append_lowByte _).trans known
  simp only [List.forall_mem_cons]
  exact ⟨not_not.2 rfl, stops, by omega, by omega, not_not.2 f.toBytes_check.symm, not_not.2 signature,
    not_le_of_gt inShelf, other, by simp⟩

end

/-- Settles O50: field by field the bytes carry the frame, and no check finds a fault in them. -/
theorem frameRoundTrip : Obligations.FrameRoundTrip := by
  intro f img own few known inShelf other
  refine ⟨f.toBytes_length, Frame.expectedLength_toBytes few,
    ⟨rfl, rfl, Frame.flagsByte_toNat few, highByte_append_lowByte _, highByte_append_lowByte _, ?_, ?_, rfl,
      fun z => ?_, rfl, fun i => f.toBytes_hold, fun p hp => ?_, f.toBytes_check⟩,
    judgeFrame_toBytes few known inShelf other⟩
  · exact (highByte_toNat _).trans (by rw [railsField_toNat])
  · exact (lowByte_toNat _).trans (by rw [railsField_toNat])
  · cases z <;> rfl
  · have carried (i : Nat) : f.toBytes.getD (19 + f.holds.length + i) 0 =
        byteAt (p.toBytes ++ [highByte (crc f.body), lowByte (crc f.body)]) i := by
      rw [← Frame.toBytes_drop_holds hp, byteAt_drop]
      rfl
    simp only [carried]
    exact ⟨rfl, rfl, p.toBytes_kindRail _, highByte_append_lowByte _, rfl, highByte_append_lowByte _⟩

end Sys2Proof.Machine

/-! Proofs about every command as a whole: it answers a next state with the same queue, no earlier than the state it was
run on (`State.Answers`). The changes that a command is made of keep the queue and never turn the clock back
(`State.Later`), so that each command is its branches, each a chain of such changes. -/

namespace Sys2Proof.Machine
open Sys2Proof

/-! ### The queue and the clock through the changes a command is made of -/

/-- `t` has the queue of `s` and is no earlier. -/
structure State.Later (s t : State) : Prop where
  pending : t.pending = s.pending
  now : s.now ≤ t.now

namespace State.Later
variable {s t u : State} {o : Occasion}

/-- The queue is the same and no time passes. -/
theorem of_eq (pending : t.pending = s.pending) (now : t.now = s.now) : s.Later t := ⟨pending, now.ge⟩

/-- The queue is the same and instant `n` is waited for, if it is still to come. -/
theorem of_max {n : Nat} (pending : t.pending = s.pending) (now : t.now = max s.now n) : s.Later t :=
  ⟨pending, (Nat.le_max_left _ _).trans_eq now.symm⟩

theorem refl (s : State) : s.Later s := of_eq rfl rfl

theorem trans (h : s.Later t) (k : t.Later u) : s.Later u := ⟨k.pending.trans h.pending, h.now.trans k.now⟩

theorem after (s : State) (o : Occasion) : s.Later (s.after o) := ⟨rfl, Nat.le_add_right _ _⟩

/-- A change that leaves the queue and the clock alone comes after. -/
theorem same (h : s.Later t) (pending : u.pending = t.pending) (now : u.now = t.now) : s.Later u :=
  h.trans (of_eq pending now)

theorem answer {r : Result} {payload : List Byte} (h : s.Later t) : s.Later (t.answer r payload) := h.same rfl rfl

theorem queueRecord {x : TimingRecord} (h : s.Later t) : s.Later (t.queueRecord x) :=
  h.same (State.queueRecord_pending t x) (State.queueRecord_now t x)

theorem setRail {r : RailIx} {x : Rail} (h : s.Later t) : s.Later (t.setRail r x) := h.same rfl rfl

theorem enterFalling {c : RailConfig} {r : RailIx} {cause : FallCause} (h : s.Later t) :
    s.Later (t.enterFalling c r cause) := h.same rfl rfl

theorem settle (h : s.Later t) : s.Later (t.settle o) :=
  have moves := t.settle_moves o
  h.same moves.pending moves.now

theorem judge {v : View} (h : s.Later t) : s.Later (t.judge o v) :=
  have view := State.BoundaryFrame.takeView t v
  (h.same view.pending view.now).settle

theorem faultRail {r : RailIx} {k : FaultKind} (h : s.Later t) : s.Later (t.faultRail o r k) :=
  have frame := State.SampleFrame.faultRail t o r k
  h.same frame.pending frame.now

theorem takeDownAll {k : FallCause} {which : RailConfig → Bool} (h : s.Later t) :
    s.Later (t.takeDownAll k which) := by
  rw [State.takeDownAll_eq]
  exact h.same rfl rfl

theorem clear {z : ZoneIx} (h : s.Later t) : s.Later (t.clear o z) := by
  refine settle ?_
  rw [State.releaseFaults_eq]
  exact h.same rfl rfl

theorem enterListen (h : s.Later t) : s.Later t.enterListen := by
  rw [State.enterListen_eq]
  exact h.same rfl rfl

theorem enterMuted {cause : MuteCause} (h : s.Later t) : s.Later (t.enterMuted cause) := by
  rw [State.enterMuted_eq]
  exact h.same rfl rfl

theorem beginLoad {straps : BitVec 5} (h : s.Later t) : s.Later (t.beginLoad straps) := h.same rfl rfl

theorem loadSucceeds {img : Image} (h : s.Later t) : s.Later (t.loadSucceeds o img) := by
  have listens : s.Later (t.withImage img).enterListen := enterListen (h.same rfl rfl)
  rw [State.loadSucceeds_eq]
  exact settle (listens.same rfl rfl)

theorem actOnSamples {l : List RailIx} (h : s.Later t) : s.Later (l.foldl (fun v r => v.actOnSample o r) t) :=
  have frame := State.SampleFrame.actOnSamples o l t
  h.same frame.pending frame.now

theorem slotEnd {k : Nat} (h : s.Later t) : s.Later (t.slotEnd o k) := by
  have ended : s.Later (t.ownSlotEnded k) := h.same rfl rfl
  have check := (t.ownSlotEnded k).missCheck_checks o k
  rw [State.slotEnd_eq]
  split
  · exact ended.same check.pending check.now
  · exact ended

theorem slotStart {k n : Nat} (h : s.Later t) : s.Later (t.slotStart o k n) := by
  have begun : s.Later (t.slotBegun k n) := h.same rfl rfl
  obtain ⟨counted, -⟩ := (t.slotBegun k n).countListen_counts o
  rw [State.slotStart_eq]
  split
  · exact begun.same counted.pending counted.now
  · exact begun

theorem takeDuplicate (h : s.Later t) : s.Later (t.takeDuplicate o) := by
  unfold State.takeDuplicate
  cases t.line.phase with
  | listen | active => exact h.enterMuted.settle
  | muted => exact h.same rfl rfl
  | start | unconfigured => exact h

theorem judgeReceived {t₀ : Nat} {ended : Option Nat} {rx : List RxByte} (h : s.Later t) :
    s.Later (t.judgeReceived o t₀ ended rx) := by
  cases hc : t.startup.config with
  | none =>
    unfold State.judgeReceived
    rw [hc]
    exact h.same rfl rfl
  | some img =>
    cases judged : judgeFrame img t.own rx with
    | refused e =>
      have refused : s.Later (t.frameRefused ended e t.receiver.muteCause) := h.same rfl rfl
      rw [State.judgeReceived_refused hc judged]
      split
      · exact refused.takeDuplicate
      · exact refused
    | valid f =>
      have keeps := State.handAll_keeps { t with receiver := { t.receiver with reception := .waiting ended } } o f t₀
        (blockOrder o)
      rw [State.judgeReceived_valid hc judged]
      exact h.same keeps.pending keeps.now

end State.Later

/-! ### Every command -/

/-- The outcome is a next state with the queue of `s`, no earlier than `s`. -/
def State.Answers (s : State) (out : Host.Outcome State Fault Refusal) : Prop := ∃ t, out = .next t ∧ s.Later t

theorem State.Answers.next {s t : State} (h : s.Later t) : s.Answers (.next t) := ⟨t, rfl, h⟩

/-- A command runs from the instant of its occasion on. -/
theorem State.Answers.after {s : State} {out : Host.Outcome State Fault Refusal} (o : Occasion)
    (h : (s.after o).Answers out) : s.Answers out := by
  obtain ⟨t, e, later⟩ := h
  exact ⟨t, e, (State.Later.after s o).trans later⟩

/-- The command finds nothing to do. -/
theorem State.Answers.unchanged (s : State) : s.Answers (.next s) := .next (.refl s)

/-- The command has two outcomes. -/
theorem State.Answers.ite {p : Prop} [Decidable p] {s t u : State} (h : s.Later t) (k : s.Later u) :
    s.Answers (if p then .next t else .next u) := by
  split
  · exact .next h
  · exact .next k

section
variable (o : Occasion) (s : State)

/-- A port command whose action keeps the queue answers, refused or not (R181, R183). -/
theorem portCommand_answers {changes : Bool} {phases : LinePhase → Bool} {inRange : State → Bool}
    {act : State → State} (acts : ∀ u : State, u.Later (act u)) :
    s.Answers (portCommand o changes phases inRange act s) := by
  refine .after o ?_
  unfold portCommand
  dsimp only
  split
  · split
    · exact .next (State.Later.refl _).answer
    · exact .next (acts _)
  · exact .unchanged _

theorem execReadTrip_answers (z : Byte) : s.Answers (execReadTrip o z s) := by
  refine portCommand_answers o s fun u => ?_
  split <;> exact (State.Later.refl u).answer

theorem execTakeRecord_answers : s.Answers (execTakeRecord o s) := by
  refine portCommand_answers o s fun u => ?_
  split <;> exact .of_eq rfl rfl

theorem execSetDemand_answers (mask : Byte) : s.Answers (execSetDemand o mask s) :=
  portCommand_answers o s fun _ => .answer (.judge (.of_eq rfl rfl))

theorem execClearZone_answers (z : Byte) : s.Answers (execClearZone o z s) :=
  portCommand_answers o s fun u => (State.Later.refl u).clear.answer

theorem execResumeLine_answers : s.Answers (execResumeLine o s) :=
  portCommand_answers o s fun u => .answer (.settle ((State.Later.refl u).enterListen.same rfl rfl))

theorem execRestart_answers : s.Answers (execRestart o s) :=
  portCommand_answers o s fun _ => .answer (.settle (.takeDownAll (.of_eq rfl rfl)))

theorem execTransactionBegin_answers : s.Answers (execTransactionBegin o s) :=
  .after o (.ite (.of_eq rfl rfl) (.of_eq rfl rfl))

theorem execPowerOn_answers (straps : BitVec 5) : s.Answers (execPowerOn o straps s) :=
  .after o (.ite (.of_eq rfl rfl) (.of_eq rfl rfl))

theorem execResetNLow_answers : s.Answers (execResetNLow o s) :=
  .after o (.ite (.of_eq rfl rfl) (.of_eq rfl rfl))

theorem execResetNHigh_answers (straps : BitVec 5) : s.Answers (execResetNHigh o straps s) :=
  .after o (.ite (.of_eq rfl rfl) (.of_eq rfl rfl))

theorem execConfigurationLoadEnd_answers (image : List Byte) : s.Answers (execConfigurationLoadEnd o image s) := by
  unfold execConfigurationLoadEnd
  dsimp only
  split
  · exact .after o (.unchanged _)
  · split
    · exact .next (.of_max rfl rfl)
    · exact .next (.loadSucceeds (.of_max rfl rfl))

theorem execReinitialisation_answers (straps : BitVec 5) : s.Answers (execReinitialisation o straps s) := by
  refine .after o ?_
  unfold execReinitialisation
  dsimp only
  split
  · rw [State.setFlagIf_eq]
    exact .next (.beginLoad (.of_eq rfl rfl))
  · exact .unchanged _

theorem execDemandPinTaken_answers (pin : DemPin) : s.Answers (execDemandPinTaken o pin s) :=
  .after o (.ite (.refl _) (.judge (.of_max rfl rfl)))

/-- The sample instant is waited for, and what the rails do there takes no time (R52). -/
theorem execSample_answers (counts : Four (BitVec 12)) (pg : Four Bool) : s.Answers (execSample o counts pg s) :=
  .after o (.ite (.refl _) (.actOnSamples (.of_max rfl rfl)))

theorem execSettleTimerExpiry_answers (r : RailIx) : s.Answers (execSettleTimerExpiry o r s) := by
  refine .after o ?_
  unfold execSettleTimerExpiry
  dsimp only
  split
  · exact .ite (.settle (.of_max rfl rfl)) (.of_max rfl rfl)
  · exact .unchanged _

/-- The expiry of a timer that faults its rail, if it runs. -/
theorem expiry_answers (r : RailIx) (k : FaultKind) (x : Option Timer) :
    s.Answers (match x with
      | some d => .next ((s.notBefore d.due).faultRail o r k)
      | none => .next s) := by
  cases x with
  | none => exact .unchanged s
  | some d => exact .next (.faultRail (.of_max rfl rfl))

theorem execDrainForced_answers (r : RailIx) : s.Answers (execDrainForced o r s) := by
  refine .after o ?_
  unfold execDrainForced
  dsimp only
  split
  · exact .ite (.settle (.enterFalling (.queueRecord (.of_max rfl rfl)))) (.of_max rfl rfl)
  · exact .unchanged _

theorem execDrainContinued_answers (r : RailIx) : s.Answers (execDrainContinued o r s) := by
  refine .after o ?_
  unfold execDrainContinued
  dsimp only
  split
  · exact .ite (.setRail (.queueRecord (.of_max rfl rfl))) (.refl _)
  · exact .unchanged _

theorem execSlotBoundary_answers : s.Answers (execSlotBoundary o s) := by
  refine .after o ?_
  unfold execSlotBoundary
  dsimp only
  split
  · exact .unchanged _
  · exact .ite (.slotEnd (.slotStart (.of_max rfl rfl))) (.slotStart (.slotEnd (.of_max rfl rfl)))

theorem execFrameBuild_answers : s.Answers (execFrameBuild o s) := by
  refine .after o ?_
  unfold execFrameBuild
  dsimp only
  split
  · exact .ite (.of_max rfl rfl) (.refl _)
  · exact .unchanged _

theorem execCollision_answers : s.Answers (execCollision o s) := by
  refine .after o ?_
  unfold execCollision
  dsimp only
  split
  · split
    · exact .next (.settle (.enterListen (.of_eq rfl rfl)))
    · exact .ite (.settle (.enterMuted (.of_eq rfl rfl))) (.of_eq rfl rfl)
  · exact .unchanged _

theorem execOwnFrameEnd_answers : s.Answers (execOwnFrameEnd o s) := by
  refine .after o ?_
  unfold execOwnFrameEnd
  dsimp only
  split
  · exact .next (.of_max rfl rfl)
  · exact .unchanged _

theorem execColdStart_answers : s.Answers (execColdStart o s) := by
  refine .after o ?_
  unfold execColdStart
  dsimp only
  split
  · exact .unchanged _
  · split
    · exact .ite (.of_max rfl rfl) (.settle (.of_max rfl rfl))
    · exact .unchanged _

theorem execFrameStart_answers : s.Answers (execFrameStart o s) :=
  .after o (.ite (.of_eq rfl rfl) (.of_eq rfl rfl))

theorem execFrameReceived_answers (bytes : List RxByte) : s.Answers (execFrameReceived o bytes s) := by
  refine .after o ?_
  unfold execFrameReceived
  dsimp only
  split
  · exact .ite (.judgeReceived (.of_max rfl rfl)) (.refl _)
  · exact .unchanged _

theorem execReceptionGap_answers (bytes : List RxByte) : s.Answers (execReceptionGap o bytes s) := by
  refine .after o ?_
  unfold execReceptionGap
  dsimp only
  split
  · exact .ite (.of_max rfl rfl) (.judgeReceived (.of_max rfl rfl))
  · exact .unchanged _

end

/-- Every command answers, one arm for each. -/
theorem exec_answers (i : Instr) (s : State) : s.Answers (exec i s) := by
  cases i <;> dsimp only [exec]
  case powerOn o straps => exact execPowerOn_answers o s straps
  case resetNLow o => exact execResetNLow_answers o s
  case resetNHigh o straps => exact execResetNHigh_answers o s straps
  case configurationLoadEnd o image => exact execConfigurationLoadEnd_answers o s image
  case transactionBegin o => exact execTransactionBegin_answers o s
  case transactionEnd o _ | demandPinChange o _ => exact .after o (.next (.of_eq rfl rfl))
  case unknown o _ | readStation o | readLine o | readPeer o _ | readZones o | readRail o _ =>
    exact portCommand_answers o s fun u => (State.Later.refl u).answer
  case readTrip o z => exact execReadTrip_answers o s z
  case takeRecord o => exact execTakeRecord_answers o s
  case setDemand o mask => exact execSetDemand_answers o s mask
  case clearZone o z => exact execClearZone_answers o s z
  case ackFlags o _ | setAlertMask o _ => exact portCommand_answers o s fun _ => .of_eq rfl rfl
  case resumeLine o => exact execResumeLine_answers o s
  case restart o => exact execRestart_answers o s
  case reload o _ => exact portCommand_answers o s fun u => (State.Later.refl u).beginLoad.answer
  case reinitialisation o straps => exact execReinitialisation_answers o s straps
  case demandPinTaken o pin => exact execDemandPinTaken_answers o s pin
  case sample o counts pg => exact execSample_answers o s counts pg
  case settleTimerExpiry o r => exact execSettleTimerExpiry_answers o s r
  case rampTimeout o r | dischargeTimeout o r | pgLost o r => exact .after o (expiry_answers o _ r _ _)
  case drainForced o r => exact execDrainForced_answers o s r
  case drainContinued o r => exact execDrainContinued_answers o s r
  case slotBoundary o => exact execSlotBoundary_answers o s
  case frameBuild o => exact execFrameBuild_answers o s
  case collision o => exact execCollision_answers o s
  case ownFrameEnd o => exact execOwnFrameEnd_answers o s
  case coldStart o => exact execColdStart_answers o s
  case frameStart o => exact execFrameStart_answers o s
  case frameReceived o bytes => exact execFrameReceived_answers o s bytes
  case receptionGap o bytes => exact execReceptionGap_answers o s bytes

/-- Settles O2, command by command. -/
theorem everyCommandAnswersNext : Obligations.EveryCommandAnswersNext := by
  intro c s
  obtain ⟨t, answers, later⟩ := exec_answers c s
  exact ⟨t, answers, later.pending, later.now⟩

/-! ### A step -/

theorem step_of_pending {s : State} {c : Instr} {rest : List Instr} (h : s.pending = c :: rest) :
    step s = exec c { s with pending := rest } := by
  unfold step
  rw [h]

theorem step_of_idle {s : State} (h : s.pending = []) : step s = .next s := by
  unfold step
  rw [h]

/-- Settles O1, by whether a command is waiting. -/
theorem stepRunsFrontCommand : Obligations.StepRunsFrontCommand :=
  ⟨fun _ _ _ => step_of_pending, fun _ => step_of_idle⟩

end Sys2Proof.Machine
